-- ==== Sys2Proof/Word.lean ====
section
/-! DEFINITION. The words of the block: bytes, cache slot numbers, pixels and the stream window
(spec/00_scope.md R6, R9, R11; spec/10_state.md R14). -/

namespace Sys2Proof

/-- `u8`, spec/00_scope.md R9: every pixel component, window byte and delta. -/
abbrev Byte := BitVec 8

/-- `u6`, spec/00_scope.md R9: a cache slot number 0..63, or a Run chunk's raw payload. -/
abbrev Slot := BitVec 6

/-- A pixel `(r, g, b, a)`, spec/00_scope.md R11; equality is component-wise. -/
structure Pixel where
  r : Byte
  g : Byte
  b : Byte
  a : Byte
  deriving DecidableEq, Repr

/-- `ZERO = (0, 0, 0, 0)`, spec/00_scope.md R11. -/
def Pixel.zero : Pixel := ⟨0, 0, 0, 0⟩

/-- `BLACK_OPAQUE = (0, 0, 0, 255)`, spec/00_scope.md R11. -/
def Pixel.blackOpaque : Pixel := ⟨0, 0, 0, 255⟩

/-- The stream window `win[0..7]`; entry 0 is the oldest byte, spec/10_state.md R20. -/
abbrev Window := Vector Byte 8

/-- The two's-complement reading `s8(x)`, spec/00_scope.md R10: used to state ranges only. -/
def s8 (x : Byte) : Int := if x.toNat < 128 then (x.toNat : Int) else (x.toNat : Int) - 256

end Sys2Proof
end

