-- ==== Sys2Proof/Syntax.lean ====
section
/-! DEFINITION. The instructions: the six chunk kinds with their operands, and the end marker
(spec/30_encoding.md R46, R50, R57), one constructor for each row of spec/opcode_table.json; and the
notation for chunk streams (R61). -/

namespace Sys2Proof

/-- One chunk, or the end marker, with its operands as spec/30_encoding.md R50 assembles them:
components are `u8`, each delta is the `u8` whose `s8` reading is the signed delta, the slot and the
raw run payload are `u6`. -/
inductive Instr where
  /-- END, the end marker (R57, R64). -/
  | endMarker
  /-- RGB, ColorRGB (R51, R69). -/
  | rgb (r g b : Byte)
  /-- RGBA, ColorRGBA (R52, R70). -/
  | rgba (r g b a : Byte)
  /-- INDEX (R53, R71). -/
  | index (slot : Slot)
  /-- DIFF (R54, R72). -/
  | diff (dr dg db : Byte)
  /-- LUMA (R55, R73). -/
  | luma (dg drdg dbdg : Byte)
  /-- RUN with raw payload n: n + 1 pixels (R56, R76). -/
  | run (n : Slot)
  deriving DecidableEq, Repr

/-- What the Chunk Tag Decoder answers for a tag byte, spec/30_encoding.md R48. -/
inductive Kind where
  | rgb
  | rgba
  | index
  | diff
  | luma
  | run
  | badChunk
  deriving DecidableEq, Repr

/-- Why bytes are no instruction. -/
inductive Reject where
  /-- A tag that matches no chunk kind, spec/30_encoding.md R58: it cannot occur. -/
  | badChunk
  /-- Fewer than the 8 bytes of a full window, spec/70_reset_and_hazards.md R103. -/
  | shortWindow
  deriving DecidableEq, Repr

/-- One line of the notation of spec/30_encoding.md R61. `run` takes the run LENGTH, not the payload. -/
inductive Asm where
  | rgb (r g b : Int)
  | rgba (r g b a : Int)
  | index (i : Int)
  | diff (dr dg db : Int)
  | luma (dg drdg dbdg : Int)
  | run (len : Int)
  | endMarker
  | bytes (xs : List Int)
  deriving DecidableEq, Repr

end Sys2Proof
end

