-- ==== Sys2Proof/WellFormed.lean ====
section
/-! DEFINITION. Which terms of `Instr` are spelled by some bytes: the operand ranges of
spec/30_encoding.md R50 and R61. "An operand outside its range spells no chunk." -/

namespace Sys2Proof

/-- A Diff delta has its `s8` value in -2..1 (R50). -/
def diffDeltaOk (d : Byte) : Bool := decide (-2 ≤ s8 d) && decide (s8 d ≤ 1)

/-- A Luma green delta has its `s8` value in -32..31 (R50). -/
def lumaGreenOk (d : Byte) : Bool := decide (-32 ≤ s8 d) && decide (s8 d ≤ 31)

/-- A Luma red-minus-green or blue-minus-green delta has its `s8` value in -8..7 (R50). -/
def lumaNibbleOk (d : Byte) : Bool := decide (-8 ≤ s8 d) && decide (s8 d ≤ 7)

/-- A Run's raw payload is 0..61: with 62 and 63 the tag would be 0xFE or 0xFF, which are ColorRGB and
ColorRGBA (R48, R56). -/
def runPayloadOk (n : Slot) : Bool := decide (n.toNat ≤ 61)

/-- Every operand is in the range its encoding admits. -/
def Instr.wellFormed : Instr → Bool
  | .endMarker => true
  | .rgb _ _ _ => true
  | .rgba _ _ _ _ => true
  | .index _ => true
  | .diff dr dg db => diffDeltaOk dr && diffDeltaOk dg && diffDeltaOk db
  | .luma dg drdg dbdg => lumaGreenOk dg && lumaNibbleOk drdg && lumaNibbleOk dbdg
  | .run n => runPayloadOk n

end Sys2Proof
end

