-- ==== Sys2Proof/Decode.lean ====
section
/-! DEFINITION. The Chunk Tag Decoder, the operand assembly and the end-marker comparison
(spec/30_encoding.md R46 to R60), the encoder, the host's table-word decoder, and the assembler of the
notation (R61). -/

namespace Sys2Proof

/-! ## Fields of the tag byte and of Luma's second byte -/

/-- `t[7:6]`. -/
def tagTop (t : Byte) : BitVec 2 := t.extractLsb' 6 2

/-- `t[5:0]`, "payload = `tag & 0x3F`" (R50). -/
def tagPayload (t : Byte) : BitVec 6 := t.extractLsb' 0 6

/-- `win[0][5:4]` (R54). -/
def diffRed (t : Byte) : BitVec 2 := t.extractLsb' 4 2

/-- `win[0][3:2]` (R54). -/
def diffGreen (t : Byte) : BitVec 2 := t.extractLsb' 2 2

/-- `win[0][1:0]` (R54). -/
def diffBlue (t : Byte) : BitVec 2 := t.extractLsb' 0 2

/-- `win[1][7:4]`, the dr-dg field (R55). -/
def lumaRed (b1 : Byte) : BitVec 4 := b1.extractLsb' 4 4

/-- `win[1][3:0]`, the db-dg field (R55). -/
def lumaBlue (b1 : Byte) : BitVec 4 := b1.extractLsb' 0 4

/-! ## Biases: wraparound subtraction, spec/00_scope.md R10 -/

/-- `bias_k(v) = v -8 k`. -/
def bias (k v : Byte) : Byte := v - k

/-- A 2-bit Diff field as a delta, `bias_2` (R50). -/
def diffDelta (raw : BitVec 2) : Byte := bias 2 (raw.setWidth 8)

/-- The 6-bit Luma green field as a delta, `bias_32` (R50). -/
def lumaGreenDelta (raw : BitVec 6) : Byte := bias 32 (raw.setWidth 8)

/-- A 4-bit Luma field as a delta, `bias_8` (R50). -/
def lumaNibbleDelta (raw : BitVec 4) : Byte := bias 8 (raw.setWidth 8)

/-! ## The tag decoder -/

/-- `classify(t)`, in the order of R48: the exact tags 0xFE and 0xFF before the 2-bit prefixes. -/
def classify (t : Byte) : Kind :=
  if t = 0xFE then .rgb
  else if t = 0xFF then .rgba
  else if tagTop t = 0b00 then .index
  else if tagTop t = 0b01 then .diff
  else if tagTop t = 0b10 then .luma
  else if tagTop t = 0b11 then .run
  else .badChunk

/-- Wire size of each kind (R46). `badChunk` has none; R66 leaves the refill count alone then. -/
def Kind.size : Kind → Fin 9
  | .rgb => 4
  | .rgba => 5
  | .index => 1
  | .diff => 1
  | .luma => 2
  | .run => 1
  | .badChunk => 0

/-- Length in bytes of an instruction: the wire size of its kind, and 8 for the end marker (R46, R57). -/
def Instr.size : Instr → Fin 9
  | .endMarker => 8
  | .rgb _ _ _ => Kind.rgb.size
  | .rgba _ _ _ _ => Kind.rgba.size
  | .index _ => Kind.index.size
  | .diff _ _ _ => Kind.diff.size
  | .luma _ _ _ => Kind.luma.size
  | .run _ => Kind.run.size

/-- The end marker's 8 bytes (R57). -/
def endMarkerWindow : Window := #v[0, 0, 0, 0, 0, 0, 0, 1]

/-- The chunk at the head of a window: the kind by the tag byte, the operands by R50. It reads `win[0]` to
`win[4]` only and rejects by name (R47, R49). -/
def decodeChunk (w : Window) : Except Reject Instr :=
  match classify w[0] with
  | .rgb => .ok (.rgb w[1] w[2] w[3])
  | .rgba => .ok (.rgba w[1] w[2] w[3] w[4])
  | .index => .ok (.index (tagPayload w[0]))
  | .diff => .ok (.diff (diffDelta (diffRed w[0])) (diffDelta (diffGreen w[0])) (diffDelta (diffBlue w[0])))
  | .luma => .ok (.luma (lumaGreenDelta (tagPayload w[0])) (lumaNibbleDelta (lumaRed w[1])) (lumaNibbleDelta (lumaBlue w[1])))
  | .run => .ok (.run (tagPayload w[0]))
  | .badChunk => .error .badChunk

/-- The whole window is compared with the end marker BEFORE the tag is classified (R57, R64, R100). -/
def decodeWindow (w : Window) : Except Reject Instr :=
  if w = endMarkerWindow then .ok .endMarker else decodeChunk w

/-- The first 8 bytes of a byte string as a window. -/
def windowOf : List Byte → Option Window
  | b0 :: b1 :: b2 :: b3 :: b4 :: b5 :: b6 :: b7 :: _ => some #v[b0, b1, b2, b3, b4, b5, b6, b7]
  | _ => none

/-- Decode the instruction at the head of a byte string and give the bytes after it. A chunk is decoded only
from a full 8-byte window (spec/70_reset_and_hazards.md R103). -/
def decode (bs : List Byte) : Except Reject (Instr × List Byte) :=
  match windowOf bs with
  | none => .error .shortWindow
  | some w =>
    match decodeWindow w with
    | .error e => .error e
    | .ok i => .ok (i, bs.drop i.size)

/-! ## The encoder, from the tables of R46 and R61 -/

/-- `0b00_iiiiii`. -/
def indexTag (i : BitVec 6) : Byte := (0b00 : BitVec 2) ++ i

/-- `0b01_rr_gg_bb`, each field the delta plus 2 (R61). -/
def diffTag (dr dg db : Byte) : Byte :=
  (0b01 : BitVec 2) ++ (dr + 2).setWidth 2 ++ (dg + 2).setWidth 2 ++ (db + 2).setWidth 2

/-- `0b10_gggggg`, the field the delta plus 32 (R61). -/
def lumaTag (dg : Byte) : Byte := (0b10 : BitVec 2) ++ (dg + 32).setWidth 6

/-- `rrrr_bbbb`, each field the delta plus 8 (R61). -/
def lumaSecond (drdg dbdg : Byte) : Byte := (drdg + 8).setWidth 4 ++ (dbdg + 8).setWidth 4

/-- `0b11_nnnnnn`. -/
def runTag (n : BitVec 6) : Byte := (0b11 : BitVec 2) ++ n

/-- The bytes of a well-formed instruction, in stream order. -/
def encode : Instr → List Byte
  | .endMarker => [0, 0, 0, 0, 0, 0, 0, 1]
  | .rgb r g b => [0xFE, r, g, b]
  | .rgba r g b a => [0xFF, r, g, b, a]
  | .index i => [indexTag i]
  | .diff dr dg db => [diffTag dr dg db]
  | .luma dg drdg dbdg => [lumaTag dg, lumaSecond drdg dbdg]
  | .run n => [runTag n]

/-- The bytes of a chunk stream, chunk after chunk. -/
def encodeAll (is : List Instr) : List Byte := is.flatMap encode

/-! ## The host's numbering of an instruction's bits -/

/-- Byte `j` of an instruction whose `nbits` bits are `w`, bit 0 the least significant bit of the FIRST byte,
a later byte's bits counting on; bits from `nbits` up are 0. -/
def tableByte (nbits w j : Nat) : Byte := BitVec.ofNat 8 (w % 2 ^ nbits / 2 ^ (8 * j))

/-- The 8 bytes of a table word as they arrive, the first byte first. -/
def tableBytes (nbits w : Nat) : List Byte :=
  [tableByte nbits w 0, tableByte nbits w 1, tableByte nbits w 2, tableByte nbits w 3,
   tableByte nbits w 4, tableByte nbits w 5, tableByte nbits w 6, tableByte nbits w 7]

/-- The instruction the decoder reads from a table word. -/
def decodeTableWord (nbits w : Nat) : Option Instr :=
  match decode (tableBytes nbits w) with
  | .ok (i, _) => some i
  | .error _ => none

/-! ## The notation of R61 -/

/-- A number of the notation as a `u8`, refused outside 0..255. -/
def asmByte (x : Int) : Option Byte := if 0 ≤ x ∧ x ≤ 255 then some (BitVec.ofInt 8 x) else none

/-- A signed delta of the notation as a `u8`, refused outside `lo..hi`. -/
def asmDelta (lo hi x : Int) : Option Byte := if lo ≤ x ∧ x ≤ hi then some (BitVec.ofInt 8 x) else none

/-- All the bytes of a `.byte` line, refused if one is out of range. -/
def asmBytes : List Int → Option (List Byte)
  | [] => some []
  | x :: xs => do
    let b ← asmByte x
    let bs ← asmBytes xs
    pure (b :: bs)

/-- The bytes a line of the notation assembles to; a line with an operand outside its range spells no chunk
and is refused (R61). -/
def assemble : Asm → Option (List Byte)
  | .rgb r g b => do pure (encode (.rgb (← asmByte r) (← asmByte g) (← asmByte b)))
  | .rgba r g b a => do pure (encode (.rgba (← asmByte r) (← asmByte g) (← asmByte b) (← asmByte a)))
  | .index i => if 0 ≤ i ∧ i ≤ 63 then some (encode (.index (BitVec.ofInt 6 i))) else none
  | .diff dr dg db => do pure (encode (.diff (← asmDelta (-2) 1 dr) (← asmDelta (-2) 1 dg) (← asmDelta (-2) 1 db)))
  | .luma dg drdg dbdg => do
    pure (encode (.luma (← asmDelta (-32) 31 dg) (← asmDelta (-8) 7 drdg) (← asmDelta (-8) 7 dbdg)))
  | .run len => if 1 ≤ len ∧ len ≤ 62 then some (encode (.run (BitVec.ofInt 6 (len - 1)))) else none
  | .endMarker => some (encode .endMarker)
  | .bytes xs => asmBytes xs

/-- The notation form of an instruction, read off its kind and operands, with `len = n + 1` for Run (R61). -/
def Instr.toAsm : Instr → Asm
  | .endMarker => .endMarker
  | .rgb r g b => .rgb r.toNat g.toNat b.toNat
  | .rgba r g b a => .rgba r.toNat g.toNat b.toNat a.toNat
  | .index i => .index i.toNat
  | .diff dr dg db => .diff (s8 dr) (s8 dg) (s8 db)
  | .luma dg drdg dbdg => .luma (s8 dg) (s8 drdg) (s8 dbdg)
  | .run n => .run (n.toNat + 1)

end Sys2Proof
end

