-- ==== Sys2Proof/Config.lean ====
section
/-! DEFINITION. The free values: what spec/20_memory.md R29 leaves at "any value" after a failed read.
Each is an opaque constant with no body, applied to the counter `freeIndex` of State. -/

namespace Sys2Proof

/-- How many bytes a failed read took, before it is reduced to its range 0..n
(spec/20_memory.md R29; spec/93_implementation_defined.md U4). A free value. -/
opaque Config.freeTaken : Nat → Nat

/-- The contents of `win` after a failed read (spec/20_memory.md R29;
spec/93_implementation_defined.md U5). A free value. -/
opaque Config.freeWindow : Nat → Window

end Sys2Proof
end

