-- ==== Sys2Proof/Machine/State.lean ====
section
/-! DEFINITION. The block's state (spec/10_state.md R14), the byte source and the consumer's pending inputs
held as plain data (spec/60_exceptions.md R93), and the reasons a step can stop. -/

namespace Sys2Proof.Machine

open Sys2Proof

/-- The Decode Driver's state, spec/10_state.md R22. -/
inductive Phase where
  | idle
  | streaming
  | ended
  | faulted
  deriving DecidableEq, Repr

/-- The fault cause register, spec/10_state.md R23. -/
inductive Cause where
  | none
  /-- Reserved: the block never raises it. -/
  | header
  | sourceIo
  | badChunk
  deriving DecidableEq, Repr

/-- The response to a `PULL`, spec/60_exceptions.md R79. -/
inductive Response where
  | pixel (p : Pixel)
  /-- `End`, the clean end of the stream. -/
  | endOfStream
  | fault (c : Cause)
  | notStarted
  deriving DecidableEq, Repr

/-- How the byte source answers one coming read (spec/20_memory.md R28, spec/70_reset_and_hazards.md R109). -/
inductive Answer where
  /-- The next bytes, or `SrcFail` if fewer than were asked for remain. -/
  | supply
  /-- `SrcFail`, whatever remains. -/
  | fail
  /-- No answer yet: the read blocks for this step. -/
  | wait
  /-- No answer, ever. -/
  | never
  deriving DecidableEq, Repr

/-- The byte source: the bytes still to come, in stream order, and how it answers the coming reads, the next one
first. With no entry left it answers as `supply`, the deterministic simulator of spec/20_memory.md R28. -/
structure Source where
  bytes   : List Byte
  answers : List Answer
  deriving DecidableEq, Repr

/-- One input from outside: a command of the consumer (spec/60_exceptions.md R86), or the header stage handing
over a source positioned at its first chunk byte (spec/70_reset_and_hazards.md R99). -/
inductive Input where
  | reset
  | start
  | pull
  | attach (src : Source)
  deriving DecidableEq, Repr

/-- The machine. The first eight fields are the block's state elements, "and nothing else"
(spec/10_state.md R14); `pos` is the ghost of R16; `source`, `inputs` and `response` are the outside world's
side of spec/60_exceptions.md R93; `freeIndex` is the model's own counter of free values. -/
structure State where
  phase        : Phase
  cause        : Cause
  prev         : Pixel
  cache        : Vector Pixel 64
  runActive    : Bool
  runRemaining : BitVec 6
  win          : Window
  refill       : Fin 9
  pos          : Nat
  source       : Source
  inputs       : List Input
  response     : Option Response
  freeIndex    : Nat
  deriving DecidableEq, Repr

/-- Why the machine stops with a fault. The block's OWN faults (SOURCE_IO, BAD_CHUNK) are next states. -/
inductive Fault where
  /-- Raised by a window step whose read the source never answers: "the step never completes"
  (spec/70_reset_and_hazards.md R109; U6, `stuck`). Safe: nothing can be proved about a state after it. -/
  | sourceNeverAnswers
  deriving DecidableEq, Repr

/-- Why a step has no meaning. -/
inductive Refusal where
  /-- For an arm of `exec` with no meaning yet, by its mnemonic; no arm of this model raises it. Safe. -/
  | notModelled (mnemonic : String)
  deriving DecidableEq, Repr

/-- The machine right after `RESET`: every element at the value of spec/10_state.md R26, `phase` IDLE (R97); no
source attached, no input pending, no response (DESIGN CHOICE: notes/assumptions/7.md, 12.md, 6.md). -/
def State.reset : State where
  phase        := .idle
  cause        := .none
  prev         := .blackOpaque
  cache        := Vector.replicate 64 .zero
  runActive    := false
  runRemaining := 0
  win          := Vector.replicate 8 0
  refill       := 8
  pos          := 0
  source       := ⟨[], []⟩
  inputs       := []
  response     := none
  freeIndex    := 0

end Sys2Proof.Machine
end

