-- ==== Sys2Proof/Machine/Operands.lean ====
section
/-! DEFINITION. What a chunk's operands make of the previous pixel: the delta colour expander's wraparound
arithmetic (spec/43_delta.md R74, R75), and the pixel cache's hash (spec/20_memory.md R36). -/

namespace Sys2Proof.Machine

open Sys2Proof

/-- `hash(p) = (3*p.r + 5*p.g + 7*p.b + 11*p.a) mod 64`, the sum exact (spec/20_memory.md R36). -/
def pixelHash (p : Pixel) : Slot :=
  BitVec.ofNat 6 (3 * p.r.toNat + 5 * p.g.toNat + 7 * p.b.toNat + 11 * p.a.toNat)

/-- `x +8 y`, spec/00_scope.md R10. -/
def add8 (x y : Byte) : Byte := x + y

/-- ColorRGB's pixel: explicit r, g, b, and the alpha of the previous pixel (spec/41_color_literals.md R69). -/
def rgbPixel (prev : Pixel) (r g b : Byte) : Pixel := ⟨r, g, b, prev.a⟩

/-- ColorRGBA's pixel (spec/41_color_literals.md R70). -/
def rgbaPixel (r g b a : Byte) : Pixel := ⟨r, g, b, a⟩

/-- Diff's pixel: an independent delta on each colour lane, alpha unchanged (spec/43_delta.md R72, R75). -/
def diffPixel (prev : Pixel) (dr dg db : Byte) : Pixel :=
  ⟨add8 prev.r dr, add8 prev.g dg, add8 prev.b db, prev.a⟩

/-- Luma's pixel: `dg` on all three colour lanes, `drdg` on red only, `dbdg` on blue only, alpha unchanged
(spec/43_delta.md R73; blue uses `dbdg`, spec/90_conflicts.md C6). -/
def lumaPixel (prev : Pixel) (dg drdg dbdg : Byte) : Pixel :=
  ⟨add8 (add8 prev.r dg) drdg, add8 prev.g dg, add8 (add8 prev.b dg) dbdg, prev.a⟩

end Sys2Proof.Machine
end

