-- ==== Sys2Proof/Machine/Flags.lean ====
section
/-! DEFINITION. The run flag and counter (spec/10_state.md R18, R19), the codes of `phase` and `cause`, and the
read-only status word (R22 to R24). -/

namespace Sys2Proof.Machine

open Sys2Proof

/-- A run continuation is due: `run_active = 1 and run_remaining > 0` (spec/44_run.md R77). -/
def State.runPending (s : State) : Bool := s.runActive && decide (0 < s.runRemaining.toNat)

/-- What a Run chunk sets: `run_remaining <- n; run_active <- 1` (spec/44_run.md R76). -/
def State.setRun (n : BitVec 6) (s : State) : State := { s with runRemaining := n, runActive := true }

/-- A continuation step's count: the remaining count falls by 1, and the flag is cleared when it reaches 0
(spec/44_run.md R77). -/
def State.countRun (s : State) : State :=
  { s with runRemaining := s.runRemaining - 1,
           runActive := if s.runRemaining - 1 = 0 then false else s.runActive }

/-- The codes of spec/10_state.md R22. -/
def Phase.code : Phase → BitVec 2
  | .idle => 0
  | .streaming => 1
  | .ended => 2
  | .faulted => 3

/-- The codes of spec/10_state.md R23. -/
def Cause.code : Cause → BitVec 2
  | .none => 0
  | .header => 1
  | .sourceIo => 2
  | .badChunk => 3

/-- The read-only `STATUS` word of spec/10_state.md R24: reserved 31:15, REFILL 14:11, RUN_REMAINING 10:5,
RUN_ACTIVE 4, CAUSE 3:2, PHASE 1:0. -/
def State.status (s : State) : BitVec 32 :=
  (0 : BitVec 17) ++ BitVec.ofNat 4 s.refill.val ++ s.runRemaining ++ BitVec.ofBool s.runActive
    ++ s.cause.code ++ s.phase.code

end Sys2Proof.Machine
end

