-- ==== Sys2Proof/Machine/Ops.lean ====
section
/-! DEFINITION. The shared operations: session initialisation, responses, entering a fault, the pixel cache, the byte
source and the stream window. -/

namespace Sys2Proof.Machine

open Sys2Proof

/-! ## Session initialisation, responses and the fault entry -/

/-- The initial state of spec/10_state.md R26 with the given phase. What is not the block's is left alone: the source,
the pending inputs (spec/60_exceptions.md R86: no command but a `PULL` in STREAMING touches the source). -/
def State.initialise (p : Phase) (s : State) : State :=
  { s with phase := p, cause := .none, prev := .blackOpaque, cache := Vector.replicate 64 .zero,
           runActive := false, runRemaining := 0, win := Vector.replicate 8 0, refill := 8, pos := 0,
           response := none }

/-- `respond r`, spec/00_scope.md R12. -/
def State.respond (r : Response) (s : State) : State := { s with response := some r }

/-- A step that gives no response. -/
def State.silent (s : State) : State := { s with response := none }

/-- `raise Fault(c)`: `phase <- FAULTED; cause <- c; respond Fault(c)` (spec/60_exceptions.md R81). There is no return
from a fault: only `initialise` leaves it (R84). -/
def State.raiseFault (c : Cause) (s : State) : State :=
  { s with phase := .faulted, cause := c, response := some (.fault c) }

/-- The end marker's terminal: `phase <- ENDED; respond End` (spec/40_step_and_window.md R64). -/
def State.finish (s : State) : State := { s with phase := .ended, response := some .endOfStream }

/-! ## The pixel cache and the previous pixel -/

/-- `CacheRead(i)`, with no side effect (spec/20_memory.md R37). -/
def State.cacheRead (s : State) (i : Slot) : Pixel := s.cache[i.toNat]'i.isLt

/-- `CacheWrite(i, p)` (spec/20_memory.md R38). -/
def State.cacheWrite (i : Slot) (p : Pixel) (s : State) : State :=
  { s with cache := s.cache.set i.toNat p i.isLt }

/-- `prev <- p; respond Pixel(p)`. -/
def State.emit (p : Pixel) (s : State) : State := { s with prev := p, response := some (.pixel p) }

/-- What RGB, RGBA, DIFF and LUMA share: `CacheWrite(hash(p), p); prev <- p; respond Pixel(p)`. -/
def State.produce (p : Pixel) (s : State) : State := (s.cacheWrite (pixelHash p) p).emit p

/-! ## The byte source -/

/-- What `SrcRead(n)` comes to (spec/20_memory.md R28; spec/70_reset_and_hazards.md R109). -/
inductive ReadResult where
  /-- The next n bytes, and the source after them. -/
  | bytes (bs : List Byte) (rest : Source)
  /-- `SrcFail`; how many bytes were taken is for the caller to leave open. -/
  | srcFail (rest : Source)
  /-- No answer yet. -/
  | waiting (rest : Source)
  /-- No answer, ever. -/
  | noAnswer
  deriving DecidableEq, Repr

/-- The bytes if n remain, else `SrcFail`: "exactly when fewer than `n` bytes remain" (spec/20_memory.md R28). -/
def Source.supply (bytes : List Byte) (answers : List Answer) (n : Nat) : ReadResult :=
  if n ≤ bytes.length then .bytes (bytes.take n) ⟨bytes.drop n, answers⟩ else .srcFail ⟨bytes, answers⟩

/-- `SrcRead(n)`, spec/20_memory.md R28. -/
def Source.read (src : Source) (n : Nat) : ReadResult :=
  match src.answers with
  | [] => Source.supply src.bytes [] n
  | .supply :: as => Source.supply src.bytes as n
  | .fail :: as => .srcFail ⟨src.bytes, as⟩
  | .wait :: as => .waiting ⟨src.bytes, as⟩
  | .never :: _ => .noAnswer

/-- How many bytes a failed read of n took: any number 0 to n (spec/20_memory.md R29), and no more than there were.
A free value. -/
def takenByFailure (k n avail : Nat) : Nat := Config.freeTaken k % (min n avail + 1)

/-! ## The stream window -/

/-- Entry `i` of the refilled window: the old entry `i + n` while there is one, then the fresh bytes
(spec/40_step_and_window.md R63). -/
def Window.refilledEntry (w : Window) (n : Nat) (bs : List Byte) (i : Nat) : Byte :=
  if h : i + n < 8 then w[i + n] else bs.getD (i + n - 8) 0

/-- `win <- [win[n], ..., win[7], bytes[0], ..., bytes[n-1]]` (spec/40_step_and_window.md R63). -/
def Window.refilled (w : Window) (n : Nat) (bs : List Byte) : Window :=
  #v[Window.refilledEntry w n bs 0, Window.refilledEntry w n bs 1, Window.refilledEntry w n bs 2,
     Window.refilledEntry w n bs 3, Window.refilledEntry w n bs 4, Window.refilledEntry w n bs 5,
     Window.refilledEntry w n bs 6, Window.refilledEntry w n bs 7]

/-- A window step's successful refill of `n = refill` bytes, after the run flag is cleared
(spec/40_step_and_window.md R62, R63); the ghost `pos` counts them (spec/10_state.md R16). -/
def State.refillWindow (bs : List Byte) (rest : Source) (s : State) : State :=
  { s with runActive := false, win := Window.refilled s.win s.refill.val bs, source := rest, pos := s.pos + s.refill.val }

/-- A window step whose read answered `SrcFail`: the run flag is already cleared, `win` and the number of bytes taken are
free values (spec/20_memory.md R29), and the fault is entered (spec/60_exceptions.md R81). -/
def State.failRead (rest : Source) (s : State) : State :=
  State.raiseFault .sourceIo
    { s with
      runActive := false
      win := Config.freeWindow s.freeIndex
      source := ⟨rest.bytes.drop (takenByFailure s.freeIndex s.refill.val rest.bytes.length), rest.answers⟩
      pos := s.pos + takenByFailure s.freeIndex s.refill.val rest.bytes.length
      freeIndex := s.freeIndex + 1 }

/-- The dispatch's `refill <- size(k)` before the rule of k runs (spec/40_step_and_window.md R65). The end marker is no
chunk and leaves the count alone (R64). -/
def State.setRefill (i : Instr) (s : State) : State :=
  match i with
  | .endMarker => s
  | .rgb _ _ _ | .rgba _ _ _ _ | .index _ | .diff _ _ _ | .luma _ _ _ | .run _ => { s with refill := i.size }

end Sys2Proof.Machine
end

