-- ==== Sys2Proof/Machine/Delta.lean ====
section
/-! DEFINITION. The meanings of the delta chunks (spec/43_delta.md R72, R73). -/

namespace Sys2Proof.Machine

open Sys2Proof

/-- DIFF (R72). -/
def execDiff (dr dg db : Byte) (s : State) : Host.Outcome State Fault Refusal :=
  .next (s.produce (diffPixel s.prev dr dg db))

/-- LUMA (R73). -/
def execLuma (dg drdg dbdg : Byte) (s : State) : Host.Outcome State Fault Refusal :=
  .next (s.produce (lumaPixel s.prev dg drdg dbdg))

end Sys2Proof.Machine
end

