-- ==== Sys2Proof/Machine/EndMarker.lean ====
section
/-! DEFINITION. The meaning of END (spec/40_step_and_window.md R64). -/

namespace Sys2Proof.Machine

open Sys2Proof

/-- END: `phase <- ENDED; respond End`, and nothing else is written (R64). -/
def execEndMarker (s : State) : Host.Outcome State Fault Refusal := .next s.finish

end Sys2Proof.Machine
end

