-- ==== Sys2Proof/Machine/IndexChunk.lean ====
section
/-! DEFINITION. The meaning of the cache reference chunk (spec/42_index.md R71). -/

namespace Sys2Proof.Machine

open Sys2Proof

/-- INDEX: the pixel in the slot becomes the previous pixel; the cache is not written (R71, decisions D5, D6). -/
def execIndex (slot : Slot) (s : State) : Host.Outcome State Fault Refusal :=
  .next (s.emit (s.cacheRead slot))

end Sys2Proof.Machine
end

