-- ==== Sys2Proof/Machine/Literals.lean ====
section
/-! DEFINITION. The meanings of the colour literal chunks (spec/41_color_literals.md R69, R70). -/

namespace Sys2Proof.Machine

open Sys2Proof

/-- RGB: alpha is the alpha of `prev` before this chunk writes it (R69, spec/70_reset_and_hazards.md R101). -/
def execRgb (r g b : Byte) (s : State) : Host.Outcome State Fault Refusal :=
  .next (s.produce (rgbPixel s.prev r g b))

/-- RGBA (R70). -/
def execRgba (r g b a : Byte) (s : State) : Host.Outcome State Fault Refusal :=
  .next (s.produce (rgbaPixel r g b a))

end Sys2Proof.Machine
end

