-- ==== Sys2Proof/Machine/Run.lean ====
section
/-! DEFINITION. The run chunk and the run continuation step (spec/44_run.md R76, R77). -/

namespace Sys2Proof.Machine

open Sys2Proof

/-- RUN: `run_remaining <- n; run_active <- 1; respond Pixel(prev)`; neither `prev` nor the cache is written (R76). -/
def execRun (n : Slot) (s : State) : Host.Outcome State Fault Refusal :=
  .next ((s.setRun n).respond (.pixel s.prev))

/-- The continuation step, with no chunk and no source read (R77). -/
def continueRun (s : State) : Host.Outcome State Fault Refusal :=
  .next (s.countRun.respond (.pixel s.prev))

end Sys2Proof.Machine
end

