-- ==== Sys2Proof/Machine/Pull.lean ====
section
/-! DEFINITION. The Decode Driver: the step a `PULL` causes (spec/40_step_and_window.md R62), the other commands
(spec/60_exceptions.md R86), and the input a step takes. -/

namespace Sys2Proof.Machine

open Sys2Proof

/-- Stages 3 and 4 of R62, on a state whose window is refilled: the end-marker check and the classification are the
decoder's, in that order; then the chunk's size becomes the refill count and its rule runs. A window that decodes to
nothing raises BAD_CHUNK (R66; unreachable by spec/30_encoding.md R48). -/
def State.dispatch (s : State) : Host.Outcome State Fault Refusal :=
  match decodeWindow s.win with
  | .ok i => exec i (s.setRefill i)
  | .error _ => .next (s.raiseFault .badChunk)

/-- A window step: stages 2 to 4 of R62, for a `PULL` whose remaining inputs are `rest`. While the source has not
answered, the step does not complete: all state is held and the `PULL` stays pending
(spec/70_reset_and_hazards.md R109; notes/assumptions/3.md, 4.md). -/
def windowStep (rest : List Input) (s : State) : Host.Outcome State Fault Refusal :=
  match s.source.read s.refill.val with
  | .bytes bs src => State.dispatch (State.refillWindow bs src { s with inputs := rest })
  | .srcFail src => .next (State.failRead src { s with inputs := rest })
  | .waiting src => .next { s with source := src, response := none }
  | .noAnswer => .fault .sourceNeverAnswers

/-- The step a `PULL` causes, by phase (R62; spec/60_exceptions.md R83, R87). -/
def pullStep (rest : List Input) (s : State) : Host.Outcome State Fault Refusal :=
  match s.phase with
  | .idle => .next (State.respond .notStarted { s with inputs := rest })
  | .ended => .next (State.respond .endOfStream { s with inputs := rest })
  | .faulted => .next (State.respond (.fault s.cause) { s with inputs := rest })
  | .streaming => if s.runPending then continueRun { s with inputs := rest } else windowStep rest s

/-- One step: the oldest pending input is taken (spec/60_exceptions.md R86, R97, R98; spec/70_reset_and_hazards.md R99).
With none pending the block holds its state (spec/60_exceptions.md R88, R92). A source handed over in any phase replaces the
old one and touches no element, so a session in STREAMING goes on with the new source's bytes until a `START`: the spec
leaves that case open (R93) and the choice is the model's (DESIGN CHOICE: notes/assumptions/1.md, 24.md). -/
def inputStep (s : State) : Host.Outcome State Fault Refusal :=
  match s.inputs with
  | [] => .next s.silent
  | .reset :: rest => .next (State.initialise .idle { s with inputs := rest })
  | .start :: rest => .next (State.initialise .streaming { s with inputs := rest })
  | .attach src :: rest => .next (State.silent { s with inputs := rest, source := src })
  | .pull :: rest => pullStep rest s

/-- Put the 8 bytes `bs` where the next step fetches: a `PULL` comes next, in a streaming session with no run pending, whose
refill of 8 bytes the source supplies with `bs`. -/
def State.placeBytes (bs : List Byte) (s : State) : State :=
  { s with phase := .streaming, cause := .none, runActive := false, refill := 8,
           source := ⟨bs ++ s.source.bytes, .supply :: s.source.answers⟩,
           inputs := .pull :: s.inputs }

end Sys2Proof.Machine
end

