-- ==== Sys2Proof/Machine/Step.lean ====
section
/-! DEFINITION. The machine's step, and how an instruction is placed where the next step fetches it. -/

namespace Sys2Proof.Machine

open Sys2Proof

/-- One step of the machine: `inputStep`. -/
def step (s : State) : Host.Outcome State Fault Refusal := Sys2Proof.Machine.inputStep s

/-- The state in which the very next step fetches and runs the instruction whose bits are `w`
(notes/assumptions/8.md). -/
def State.withFetchWord (s : State) (nbits w : Nat) : State := s.placeBytes (tableBytes nbits w)

end Sys2Proof.Machine
end

