-- ==== Sys2Proof/Machine/Boot.lean ====
section
/-! DEFINITION. The boot contract of spec/70_reset_and_hazards.md R99: what the header stage, OUTSIDE the block, does
before `START`. No step of the block reads any of it. -/

namespace Sys2Proof.Machine

open Sys2Proof

/-- Why the header stage lets no decoding proceed. -/
inductive HeaderFault where
  /-- The source cannot supply the full 14-byte header (R99). -/
  | shortHeader
  /-- "Magic bytes mismatch" (R99). -/
  | badMagic
  /-- A channel count other than 3 or 4: outside the spec (R99; spec/93_implementation_defined.md U12, `refuse`). -/
  | channelsNotRuled
  deriving DecidableEq, Repr

/-- The header's fields, "opaque metadata" to the block (spec/00_scope.md R7). -/
structure Header where
  width      : BitVec 32
  height     : BitVec 32
  channels   : Byte
  colorspace : Byte
  deriving DecidableEq, Repr

/-- The magic `qoif` (R99; its ASCII codes are the spec's general knowledge, notes/assumptions/15.md). -/
def magic : List Byte := [0x71, 0x6F, 0x69, 0x66]

/-- A big-endian u32 (spec/20_memory.md R32). -/
def bigEndian32 (b0 b1 b2 b3 : Byte) : BitVec 32 := b0 ++ b1 ++ b2 ++ b3

/-- Consume exactly the 14 header bytes and check the magic (R99). -/
def headerStage : List Byte → Except HeaderFault (Header × List Byte)
  | m0 :: m1 :: m2 :: m3 :: w0 :: w1 :: w2 :: w3 :: h0 :: h1 :: h2 :: h3 :: ch :: cs :: rest =>
    if [m0, m1, m2, m3] ≠ magic then .error .badMagic
    else if ch ≠ 3 ∧ ch ≠ 4 then .error .channelsNotRuled
    else .ok (⟨bigEndian32 w0 w1 w2 w3, bigEndian32 h0 h1 h2 h3, ch, cs⟩, rest)
  | _ => .error .shortHeader

/-- What the system gives the block for an image file: the source positioned at the first chunk byte, then `START`; nothing
if the header stage faults, "So `START` is not issued" (R99). -/
def bootInputs (file : List Byte) : List Input :=
  match headerStage file with
  | .ok (_, rest) => [.attach ⟨rest, []⟩, .start]
  | .error _ => []

end Sys2Proof.Machine
end

