-- ==== Sys2Proof/Machine/Instances.lean ====
section
/-! DEFINITION. Several blocks side by side, each with its own state and its own byte source
(spec/60_exceptions.md R90). -/

namespace Sys2Proof.Machine

open Sys2Proof

/-- Block number `k` makes its step; the list is left alone where there is no such block, or it stops. -/
def stepBlock (k : Nat) (blocks : List State) : List State :=
  match blocks[k]? with
  | some s =>
    match step s with
    | .next t => blocks.set k t
    | .fault _ => blocks
    | .refused _ => blocks
  | none => blocks

/-- The blocks after a schedule: the blocks named in it make a step each, in its order (notes/assumptions/22.md). -/
def runSchedule : List Nat → List State → List State
  | [], blocks => blocks
  | j :: sched, blocks => runSchedule sched (stepBlock j blocks)

/-- What a step of `s` responds, if it answers a next state with a response. -/
def stepResponse (s : State) : List Response :=
  match step s with
  | .next t => t.response.toList
  | .fault _ => []
  | .refused _ => []

/-- The responses of block number `k` over a schedule, in order. -/
def blockResponses (k : Nat) : List Nat → List State → List Response
  | [], _ => []
  | j :: sched, blocks =>
    (if j = k then blocks[k]?.toList.flatMap stepResponse else []) ++ blockResponses k sched (stepBlock j blocks)

end Sys2Proof.Machine
end

