-- ==== Sys2Proof/Machine/Ports.lean ====
section
/-! DEFINITION. The outputs of the block as functions of its state: the level outputs of spec/60_exceptions.md R85, the
informative signal-level ports of R95, the priority of simultaneous commands, and the consumer's serialisation (R94,
outside the block). No step reads any of these. -/

namespace Sys2Proof.Machine

open Sys2Proof

/-- `ended = (phase = ENDED)`, R85. -/
def State.ended (s : State) : Bool := decide (s.phase = .ended)

/-- `faulted = (phase = FAULTED)`, R85. -/
def State.faulted (s : State) : Bool := decide (s.phase = .faulted)

/-- `resp_valid`: the response of the latest step is present. -/
def State.respValid (s : State) : Bool := s.response.isSome

/-- `resp_kind`: 0 Pixel, 1 End, 2 Fault, 3 NotStarted. -/
def Response.kind : Response → BitVec 2
  | .pixel _ => 0
  | .endOfStream => 1
  | .fault _ => 2
  | .notStarted => 3

/-- A pixel as the 32-bit word `(r, g, b, a)`, r in bits 31:24. -/
def Pixel.word (p : Pixel) : BitVec 32 := p.r ++ p.g ++ p.b ++ p.a

/-- `resp_pixel`; absent when the response is no pixel, where R95 states no value (notes/assumptions/16.md). -/
def Response.pixelWord : Response → Option (BitVec 32)
  | .pixel p => some (Pixel.word p)
  | .endOfStream => none
  | .fault _ => none
  | .notStarted => none

/-- `resp_cause`: the cause when the response is a fault, else 0. -/
def Response.causeCode : Response → BitVec 2
  | .pixel _ => 0
  | .endOfStream => 0
  | .fault c => c.code
  | .notStarted => 0

/-- `src_req_n`: the number of bytes the next `PULL` asks the source for, when it asks at all (R95;
spec/20_memory.md R31). -/
def State.sourceRequest (s : State) : Option (Fin 9) :=
  if s.phase = .streaming ∧ s.runPending = false then some s.refill else none

/-- `src_req_valid`: a `PULL` is pending whose step asks the source. It stays so while the read waits
(spec/70_reset_and_hazards.md R109). -/
def State.srcReqValid (s : State) : Bool := decide (s.inputs.head? = some .pull) && s.sourceRequest.isSome

/-- How the source answers, by `src_rsp_valid` and `src_rsp_ok`: 1 and 1 for bytes, 1 and 0 for `SrcFail`, 0 for no answer
yet. -/
def answerOfPins (valid ok : Bool) : Answer := if valid then (if ok then .supply else .fail) else .wait

/-- `src_rsp_bytes`: stream byte j of the answer is in bits 8j+7:8j. -/
def answerBytes (n : Nat) (w : BitVec 64) : List Byte := (List.range n).map fun j => w.extractLsb' (8 * j) 8

/-- The one command of a moment at which several pins are high: `rst` over `start` over `pull_valid`
(R95, decision D23). -/
def commandOfPins (rst start pullValid : Bool) : Option Input :=
  if rst then some .reset else if start then some .start else if pullValid then some .pull else none

/-- The consumer's serialisation of a pixel, by the header's channel count 3 or 4, in the order r, g, b, a (R94). -/
def serialize (channels : Nat) (p : Pixel) : Option (List Byte) :=
  if channels = 3 then some [p.r, p.g, p.b] else if channels = 4 then some [p.r, p.g, p.b, p.a] else none

end Sys2Proof.Machine
end

