-- ==== Sys2Proof/Safety.lean ====
section
/-! DEFINITION. The terms claims are stated in: the invariant of spec/10_state.md R25 and spec/20_memory.md R40, what a
step leaves alone, what a run gives, the environment's duties, and a reference decoder that knows chunks and pixels but
no window, no refill and no steps. -/

namespace Sys2Proof.Machine

open Sys2Proof

/-! ## The invariant -/

/-- The slot number of a pixel as a number: (3r + 5g + 7b + 11a) mod 64 (spec/20_memory.md R36). -/
def slotNumber (p : Pixel) : Nat := (3 * p.r.toNat + 5 * p.g.toNat + 7 * p.b.toNat + 11 * p.a.toNat) % 64

/-- What spec/10_state.md R25 says of every reachable state, with spec/20_memory.md R40's form of a slot. -/
structure State.Inv (s : State) : Prop where
  runCount : s.runRemaining.toNat ≤ 61
  refillSize : s.refill.val = 1 ∨ s.refill.val = 2 ∨ s.refill.val = 4 ∨ s.refill.val = 5 ∨ s.refill.val = 8
  causeOfFault : s.cause = .none ↔ s.phase ≠ .faulted
  slots : ∀ j : Fin 64, s.cache[j] = Pixel.zero ∨ slotNumber s.cache[j] = j.val

/-- The session-initial state of spec/10_state.md R26, element by element, with phase `p`. -/
structure SessionInitial (p : Phase) (s : State) : Prop where
  phase : s.phase = p
  cause : s.cause = .none
  prev : s.prev = ⟨0, 0, 0, 255⟩
  cache : ∀ j : Fin 64, s.cache[j] = ⟨0, 0, 0, 0⟩
  runActive : s.runActive = false
  runRemaining : s.runRemaining.toNat = 0
  win : ∀ j : Fin 8, s.win[j] = 0
  refill : s.refill.val = 8

/-! ## When a step decodes, and what it leaves alone -/

/-- A `PULL` comes next, in STREAMING, with no run continuation due (spec/40_step_and_window.md R62, stage 2). -/
structure WindowStepDue (s : State) (rest : List Input) : Prop where
  pull : s.inputs = .pull :: rest
  streaming : s.phase = .streaming
  noRun : s.runActive = false ∨ s.runRemaining.toNat = 0

/-- A window step is due and the source answers its refill; `w` is the refilled window and `src` the source after the
read. -/
structure WindowReady (s : State) (rest : List Input) (w : Window) (src : Source) : Prop where
  due : WindowStepDue s rest
  read : ∃ bs, s.source.read s.refill.val = .bytes bs src ∧ w = Window.refilled s.win s.refill.val bs

/-- What a window step that decodes a chunk does beside the chunk's own rule: the run flag is cleared before the refill, the
window and the source are those of the refill, and phase, cause, the free counter stay. -/
structure WindowStepFrame (s : State) (rest : List Input) (w : Window) (src : Source) (t : State) : Prop where
  phase : t.phase = s.phase
  cause : t.cause = s.cause
  win : t.win = w
  source : t.source = src
  pos : t.pos = s.pos + s.refill.val
  inputs : t.inputs = rest
  freeIndex : t.freeIndex = s.freeIndex

/-- The fields no chunk's own rule writes: everything but `prev`, the cache, the run flag and counter, and the
response. -/
structure ExecFrame (s t : State) : Prop where
  phase : t.phase = s.phase
  cause : t.cause = s.cause
  win : t.win = s.win
  refill : t.refill = s.refill
  pos : t.pos = s.pos
  source : t.source = s.source
  inputs : t.inputs = s.inputs
  freeIndex : t.freeIndex = s.freeIndex

/-- Slot number `slotNumber p` holds `p` and every other slot is as before (spec/20_memory.md R38). -/
def CacheWritten (s t : State) (p : Pixel) : Prop :=
  ∀ j : Fin 64, t.cache[j] = if j.val = slotNumber p then p else s.cache[j]

/-- The end marker's bytes, in stream order (spec/30_encoding.md R57). -/
def IsEndMarker (w : Window) : Prop := w.toList = [0, 0, 0, 0, 0, 0, 0, 1]

/-- The source answers its next read as `supply`, listed or by default. -/
def Source.SuppliesNext (src : Source) : Prop := src.answers = [] ∨ src.answers.head? = some .supply

/-- The next input is a `RESET` or a `START`. -/
def State.initialises (s : State) : Prop := s.inputs.head? = some .reset ∨ s.inputs.head? = some .start

/-! ## Runs -/

/-- The instruction the next step decodes from its refilled window, if it decodes one. -/
def State.chunkAt (s : State) : Option Instr :=
  match s.inputs with
  | .pull :: _ =>
    if s.phase = .streaming ∧ s.runPending = false then
      match s.source.read s.refill.val with
      | .bytes bs _ =>
        match decodeWindow (Window.refilled s.win s.refill.val bs) with
        | .ok i => some i
        | .error _ => none
      | .srcFail _ => none
      | .waiting _ => none
      | .noAnswer => none
    else none
  | _ => none

/-- The instructions decoded in the first `k` steps, in order. -/
def chunksIn : Nat → State → List Instr
  | 0, _ => []
  | k + 1, s =>
    match step s with
    | .next t => s.chunkAt.toList ++ chunksIn k t
    | .fault _ => []
    | .refused _ => []

/-- The responses given in the first `k` steps, in order (spec/60_exceptions.md R79). -/
def responsesIn : Nat → State → List Response
  | 0, _ => []
  | k + 1, s =>
    match step s with
    | .next t => t.response.toList ++ responsesIn k t
    | .fault _ => []
    | .refused _ => []

/-- The bytes of a list of instructions, by their wire sizes. -/
def totalSize (is : List Instr) : Nat := (is.map fun i => i.size.val).sum

/-- Bytes as one number, the first byte the least significant. -/
def littleEndian : List Byte → Nat
  | [] => 0
  | b :: bs => b.toNat + 256 * littleEndian bs

/-! ## The environment's duties -/

/-- The source answers every read at some time. -/
def Source.answering (src : Source) : Bool := !src.answers.contains .never

/-- The present source and every source still to be attached answer every read (spec/70_reset_and_hazards.md R109: "the
source's duty to answer is a fairness assumption, not a rule of the block"). -/
def State.sourcesAnswer (s : State) : Bool :=
  s.source.answering && s.inputs.all fun i =>
    match i with
    | .attach src => src.answering
    | .reset => true
    | .start => true
    | .pull => true

/-- The consumer's duty of spec/60_exceptions.md R93: each `START` follows a source the header stage has handed over since
the `START` before it (`handed` says whether one is already there). A claim about whole images passes through no other
`START` (spec/93_implementation_defined.md U17). It says nothing of a `PULL` between a hand-over and the next `START`,
which the model lets read the new source (notes/assumptions/24.md). -/
def headerContract : Bool → List Input → Bool
  | _, [] => true
  | _, .attach _ :: is => headerContract true is
  | handed, .start :: is => handed && headerContract false is
  | handed, .reset :: is => headerContract handed is
  | handed, .pull :: is => headerContract handed is

/-! ## The reference decoder -/

/-- A picture being drawn: the previous pixel, the pixels written to the cache (the newest first), and the pixels output so
far, in order. -/
structure Picture where
  prev : Pixel
  seen : List Pixel
  out  : List Pixel
  deriving DecidableEq, Repr

/-- The session's beginning (spec/10_state.md R26). -/
def Picture.blank : Picture := ⟨.blackOpaque, [], []⟩

/-- The most recent cache-written pixel with the given slot number, or `ZERO` if there is none
(spec/20_memory.md R40). -/
def lastWritten (seen : List Pixel) (slot : Nat) : Pixel :=
  (seen.find? fun p => decide (slotNumber p = slot)).getD .zero

/-- Output a pixel that is written to the cache. -/
def Picture.paint (d : Picture) (p : Pixel) : Picture := ⟨p, p :: d.seen, d.out ++ [p]⟩

/-- One chunk's pixels (spec/41_color_literals.md to spec/44_run.md), a whole run at once. -/
def Picture.draw (d : Picture) : Instr → Picture
  | .endMarker => d
  | .rgb r g b => d.paint ⟨r, g, b, d.prev.a⟩
  | .rgba r g b a => d.paint ⟨r, g, b, a⟩
  | .index i => ⟨lastWritten d.seen i.toNat, d.seen, d.out ++ [lastWritten d.seen i.toNat]⟩
  | .diff dr dg db => d.paint ⟨d.prev.r + dr, d.prev.g + dg, d.prev.b + db, d.prev.a⟩
  | .luma dg drdg dbdg =>
    d.paint ⟨d.prev.r + (dg + drdg), d.prev.g + dg, d.prev.b + (dg + dbdg), d.prev.a⟩
  | .run n => ⟨d.prev, d.seen, d.out ++ List.replicate (n.toNat + 1) d.prev⟩

/-- All the chunks of a stream. -/
def Picture.drawAll (d : Picture) (is : List Instr) : Picture := is.foldl Picture.draw d

/-- No place of the stream at which a chunk starts shows the end marker: spec/70_reset_and_hazards.md R104's duty of a stream
writer. `after` is what follows the chunks. -/
def noAlias (after : List Byte) : List Instr → Bool
  | [] => true
  | i :: is => decide ((encodeAll (i :: is) ++ after).take 8 ≠ encode .endMarker) && noAlias after is

end Sys2Proof.Machine
end

