-- ==== Sys2Proof/Certificates/Slice0/Obligations.lean ====
section
/-! DEFINITION. The statements for the provers, in the order of OBLIGATIONS.json. -/

open Sys2Proof Sys2Proof.Machine

/-! ## Reset and the commands -/

/-- R26: every element after `RESET`, and after `START` apart from `phase`, and the `STATUS` word then. -/
def Obligations.InitialStateAfterResetAndStart : Prop :=
  SessionInitial .idle State.reset ∧ State.reset.status = 0x00004000 ∧
  (∀ (s : State) (rest : List Input), s.inputs = .reset :: rest →
    ∃ t, step s = .next t ∧ SessionInitial .idle t ∧ t.status = 0x00004000) ∧
  (∀ (s : State) (rest : List Input), s.inputs = .start :: rest →
    ∃ t, step s = .next t ∧ SessionInitial .streaming t ∧ t.status = 0x00004001)

/-- R97: `RESET` in any phase: the initial state with `phase = IDLE`, nothing read, no response. -/
def Obligations.ResetCommandInitialises : Prop :=
  ∀ (s : State) (rest : List Input), s.inputs = .reset :: rest →
    ∃ t, step s = .next t ∧ SessionInitial .idle t ∧ t.source = s.source ∧ t.response = none ∧ t.inputs = rest

/-- R98: `START` in any phase: a fresh session, nothing read, no response; the next `PULL` is a window step whose
refill is 8 bytes. -/
def Obligations.StartCommandBeginsSession : Prop :=
  ∀ (s : State) (rest : List Input), s.inputs = .start :: rest →
    ∃ t, step s = .next t ∧ SessionInitial .streaming t ∧ t.source = s.source ∧ t.response = none ∧
      t.inputs = rest ∧ t.pos = 0 ∧
      ∀ rest', rest = .pull :: rest' → WindowStepDue t rest' ∧ t.sourceRequest = some 8

/-- R87: a `PULL` in IDLE responds NotStarted, reads nothing and changes nothing. -/
def Obligations.PullInIdleRespondsNotStarted : Prop :=
  ∀ (s : State) (rest : List Input), s.inputs = .pull :: rest → s.phase = .idle →
    step s = .next { s with inputs := rest, response := some .notStarted }

/-- R83: a `PULL` in a terminal phase repeats the response, reads nothing and changes nothing; only `RESET` and `START`
leave a terminal phase. -/
def Obligations.TerminalPullsRepeat : Prop :=
  (∀ (s : State) (rest : List Input), s.inputs = .pull :: rest → s.phase = .ended →
    step s = .next { s with inputs := rest, response := some .endOfStream }) ∧
  (∀ (s : State) (rest : List Input), s.inputs = .pull :: rest → s.phase = .faulted →
    step s = .next { s with inputs := rest, response := some (.fault s.cause) }) ∧
  (∀ s t : State, s.phase = .ended ∨ s.phase = .faulted → step s = .next t → t.phase ≠ s.phase → s.initialises)

/-- With no command pending the block holds all its state (R92), and a source handed over by the header stage replaces the
source and touches no element of the block. Taking one input a step, the hand-over as an input, and that it replaces the
source in the middle of a session too, are the model's (notes/assumptions/1.md, 24.md). -/
def Obligations.BlockHoldsStateBetweenCommands : Prop :=
  (∀ s : State, s.inputs = [] → step s = .next { s with response := none }) ∧
  (∀ (s : State) (src : Source) (rest : List Input), s.inputs = .attach src :: rest →
    step s = .next { s with inputs := rest, source := src, response := none })

/-! ## Phase, cause, status and the invariant -/

/-- R22: the phase codes, and every transition there is. -/
def Obligations.PhaseCodesAndTransitions : Prop :=
  Phase.code .idle = 0 ∧ Phase.code .streaming = 1 ∧ Phase.code .ended = 2 ∧ Phase.code .faulted = 3 ∧
  (∀ s t : State, step s = .next t → t.phase ≠ s.phase →
    (s.inputs.head? = some .start ∧ t.phase = .streaming) ∨
    (s.inputs.head? = some .reset ∧ t.phase = .idle) ∨
    (s.inputs.head? = some .pull ∧ s.phase = .streaming ∧ t.phase = .ended ∧ s.chunkAt = some .endMarker) ∨
    (s.inputs.head? = some .pull ∧ s.phase = .streaming ∧ t.phase = .faulted ∧ t.response = some (.fault t.cause))) ∧
  (∀ s t : State, step s = .next t →
    (s.inputs.head? = some .start → t.phase = .streaming) ∧ (s.inputs.head? = some .reset → t.phase = .idle) ∧
    (s.chunkAt = some .endMarker → t.phase = .ended) ∧
    (s.phase = .streaming → ∀ c, t.response = some (.fault c) → t.phase = .faulted))

/-- R23: the cause codes; `cause` is written only by session initialisation and by raising SOURCE_IO at a failed refill;
HEADER is never raised and BAD_CHUNK cannot occur. -/
def Obligations.CauseCodesAndWriters : Prop :=
  Cause.code .none = 0 ∧ Cause.code .header = 1 ∧ Cause.code .sourceIo = 2 ∧ Cause.code .badChunk = 3 ∧
  ∀ s t : State, step s = .next t → t.cause ≠ s.cause →
    (s.initialises ∧ t.cause = .none) ∨
    (s.phase = .streaming ∧ t.phase = .faulted ∧ t.response = some (.fault t.cause) ∧ t.cause = .sourceIo ∧
      ∃ src, s.source.read s.refill.val = .srcFail src)

/-- R24: the fields of the read-only status word. -/
def Obligations.StatusWordFields : Prop :=
  (∀ s : State,
    s.status.toNat % 4 = s.phase.code.toNat ∧
    s.status.toNat / 4 % 4 = s.cause.code.toNat ∧
    s.status.toNat / 16 % 2 = s.runActive.toNat ∧
    s.status.toNat / 32 % 64 = s.runRemaining.toNat ∧
    s.status.toNat / 2048 % 16 = s.refill.val ∧
    s.status.toNat / 32768 = 0) ∧
  State.reset.status = 0x00004000 ∧
  (∀ s t : State, s.inputs.head? = some .reset → step s = .next t → t.status = 0x00004000) ∧
  (∀ s t : State, s.inputs.head? = some .start → step s = .next t → t.status = 0x00004001)

/-- R85: the level outputs follow the phase, and only `RESET` or `START` clears them. -/
def Obligations.LevelOutputsFollowPhase : Prop :=
  (∀ s : State, (s.ended = true ↔ s.phase = .ended) ∧ (s.faulted = true ↔ s.phase = .faulted) ∧
    (s.ended = true ↔ s.status.toNat % 4 = 2) ∧ (s.faulted = true ↔ s.status.toNat % 4 = 3)) ∧
  ∀ s t : State, step s = .next t →
    (s.ended = true ∧ t.ended = false) ∨ (s.faulted = true ∧ t.faulted = false) → s.initialises

/-- The invariant of R25 and R40 holds after reset. -/
def Obligations.InvariantHoldsAtReset : Prop := State.reset.Inv

/-- The invariant of R25 and R40 is kept by every step, from every state that has it. -/
def Obligations.InvariantKeptByEveryStep : Prop :=
  ∀ s t : State, s.Inv → step s = .next t → t.Inv

/-! ## Encoding -/

/-- R50: every operand as a number, from the bytes of a window that is not the end marker. -/
def Obligations.OperandAssembly : Prop :=
  ∀ w : Window, ¬ IsEndMarker w →
    (w[0].toNat = 0xFE → decodeWindow w = .ok (.rgb w[1] w[2] w[3])) ∧
    (w[0].toNat = 0xFF → decodeWindow w = .ok (.rgba w[1] w[2] w[3] w[4])) ∧
    (w[0].toNat ≤ 0x3F → ∃ i : Slot, decodeWindow w = .ok (.index i) ∧ i.toNat = w[0].toNat % 64) ∧
    (0x40 ≤ w[0].toNat → w[0].toNat ≤ 0x7F → ∃ dr dg db : Byte, decodeWindow w = .ok (.diff dr dg db) ∧
      s8 dr = ((w[0].toNat / 16 % 4 : Nat) : Int) - (2 : Int) ∧
      s8 dg = ((w[0].toNat / 4 % 4 : Nat) : Int) - (2 : Int) ∧
      s8 db = ((w[0].toNat % 4 : Nat) : Int) - (2 : Int)) ∧
    (0x80 ≤ w[0].toNat → w[0].toNat ≤ 0xBF → ∃ dg drdg dbdg : Byte, decodeWindow w = .ok (.luma dg drdg dbdg) ∧
      s8 dg = ((w[0].toNat % 64 : Nat) : Int) - (32 : Int) ∧
      s8 drdg = ((w[1].toNat / 16 : Nat) : Int) - (8 : Int) ∧
      s8 dbdg = ((w[1].toNat % 16 : Nat) : Int) - (8 : Int)) ∧
    (0xC0 ≤ w[0].toNat → w[0].toNat ≤ 0xFD → ∃ n : Slot, decodeWindow w = .ok (.run n) ∧
      n.toNat = w[0].toNat % 64 ∧ n.toNat ≤ 61)

/-- R57: the end marker is recognised only as the whole window. -/
def Obligations.EndMarkerIsTheWholeWindow : Prop :=
  (∀ w : Window, decodeWindow w = .ok .endMarker ↔ IsEndMarker w) ∧
  encode .endMarker = [0, 0, 0, 0, 0, 0, 0, 1] ∧
  decodeWindow #v[0, 0, 0, 0, 0, 0, 0, 2] = .ok (.index 0)

/-- R58: every window decodes to a well-formed instruction, whatever its bytes, so no step raises BAD_CHUNK. -/
def Obligations.EveryWindowDecodes : Prop :=
  (∀ w : Window, ∃ i, decodeWindow w = .ok i ∧ i.wellFormed = true) ∧
  ∀ s t : State, step s = .next t → t.cause = .badChunk → s.cause = .badChunk

/-- R59: an Index chunk is decoded from its tag byte alone. -/
def Obligations.IndexDecodedFromTagAlone : Prop :=
  ∀ w : Window, ¬ IsEndMarker w → w[0].toNat < 64 → decodeWindow w = .ok (.index (BitVec.ofNat 6 w[0].toNat))

/-- The tag byte alone fixes the length, and no byte past the fifth plays a part in a chunk. -/
def Obligations.ChunkFixedByTagAndFourBytes : Prop :=
  ∀ (v w : Window) (i j : Instr), ¬ IsEndMarker v → ¬ IsEndMarker w → v[0] = w[0] →
    decodeWindow v = .ok i → decodeWindow w = .ok j →
    i.size = j.size ∧ (v[1] = w[1] → v[2] = w[2] → v[3] = w[3] → v[4] = w[4] → i = j)

/-- Words written out from the encodings of R51 to R57 decode to what they stand for. -/
def Obligations.WrittenOutWordsDecode : Prop :=
  decodeWindow #v[0xFE, 0x0A, 0x14, 0x1E, 0, 0, 0, 0] = .ok (.rgb 10 20 30) ∧
  decodeWindow #v[0xFF, 0x01, 0x02, 0x03, 0x04, 0, 0, 0] = .ok (.rgba 1 2 3 4) ∧
  decodeWindow #v[0x28, 0, 0, 0, 0, 0, 0, 0] = .ok (.index 40) ∧
  decodeWindow #v[0x5B, 0, 0, 0, 0, 0, 0, 0] = .ok (.diff 0xFF 0 1) ∧
  decodeWindow #v[0xA5, 0x3C, 0, 0, 0, 0, 0, 0] = .ok (.luma 5 0xFB 4) ∧
  decodeWindow #v[0xC3, 0, 0, 0, 0, 0, 0, 0] = .ok (.run 3) ∧
  decodeWindow #v[0, 0, 0, 0, 0, 0, 0, 1] = .ok .endMarker

/-- Decoding gives back every well-formed instruction and the bytes after it, from any 8 bytes that start with its
encoding and do not spell the end marker by chance. -/
def Obligations.DecodeOfEncode : Prop :=
  ∀ (i : Instr) (tail : List Byte), i.wellFormed = true → 8 ≤ (encode i ++ tail).length →
    i = .endMarker ∨ (encode i ++ tail).take 8 ≠ encode .endMarker →
    decode (encode i ++ tail) = .ok (i, tail)

/-- What decodes was its encoding and the bytes after it: no bit of the bytes is dropped or invented. -/
def Obligations.EncodeOfDecode : Prop :=
  ∀ (bs rest : List Byte) (i : Instr), decode bs = .ok (i, rest) → i.wellFormed = true ∧ encode i ++ rest = bs

/-- The host's table word of a well-formed instruction, its first byte least significant, decodes to it. -/
def Obligations.TableWordDecodes : Prop :=
  ∀ i : Instr, i.wellFormed = true → decodeTableWord (8 * i.size.val) (littleEndian (encode i)) = some i

/-- R61: the bytes of each form of the notation, refused outside its ranges; and decoding is its inverse. -/
def Obligations.AssemblerFollowsTheForms : Prop :=
  (∀ r g b : Int, assemble (.rgb r g b) =
    if (0 ≤ r ∧ r ≤ 255) ∧ (0 ≤ g ∧ g ≤ 255) ∧ (0 ≤ b ∧ b ≤ 255)
    then some [0xFE, BitVec.ofInt 8 r, BitVec.ofInt 8 g, BitVec.ofInt 8 b] else none) ∧
  (∀ r g b a : Int, assemble (.rgba r g b a) =
    if (0 ≤ r ∧ r ≤ 255) ∧ (0 ≤ g ∧ g ≤ 255) ∧ (0 ≤ b ∧ b ≤ 255) ∧ (0 ≤ a ∧ a ≤ 255)
    then some [0xFF, BitVec.ofInt 8 r, BitVec.ofInt 8 g, BitVec.ofInt 8 b, BitVec.ofInt 8 a] else none) ∧
  (∀ i : Int, assemble (.index i) = if 0 ≤ i ∧ i ≤ 63 then some [BitVec.ofInt 8 i] else none) ∧
  (∀ dr dg db : Int, assemble (.diff dr dg db) =
    if (-2 ≤ dr ∧ dr ≤ 1) ∧ (-2 ≤ dg ∧ dg ≤ 1) ∧ (-2 ≤ db ∧ db ≤ 1)
    then some [BitVec.ofInt 8 (64 + (dr + 2) * 16 + (dg + 2) * 4 + (db + 2))] else none) ∧
  (∀ dg drdg dbdg : Int, assemble (.luma dg drdg dbdg) =
    if (-32 ≤ dg ∧ dg ≤ 31) ∧ (-8 ≤ drdg ∧ drdg ≤ 7) ∧ (-8 ≤ dbdg ∧ dbdg ≤ 7)
    then some [BitVec.ofInt 8 (128 + (dg + 32)), BitVec.ofInt 8 ((drdg + 8) * 16 + (dbdg + 8))] else none) ∧
  (∀ len : Int, assemble (.run len) =
    if 1 ≤ len ∧ len ≤ 62 then some [BitVec.ofInt 8 (192 + (len - 1))] else none) ∧
  assemble .endMarker = some [0, 0, 0, 0, 0, 0, 0, 1] ∧
  (∀ xs : List Int, assemble (.bytes xs) =
    if ∀ x ∈ xs, 0 ≤ x ∧ x ≤ 255 then some (xs.map (BitVec.ofInt 8)) else none) ∧
  (∀ i : Instr, i.wellFormed = true → assemble i.toAsm = some (encode i)) ∧
  (∀ (w : Window) (i : Instr), decodeWindow w = .ok i → assemble i.toAsm = some (w.toList.take i.size.val))

/-! ## Arithmetic -/

/-- R10: wraparound addition, subtraction of a bias, and the signed reading. -/
def Obligations.WraparoundArithmetic : Prop :=
  (∀ x y : Byte, (add8 x y).toNat = (x.toNat + y.toNat) % 256) ∧
  (∀ k v : Byte, ((bias k v).toNat : Int) = ((v.toNat : Int) - (k.toNat : Int)) % 256) ∧
  (∀ x : Byte, s8 x = if x.toNat < 128 then (x.toNat : Int) else (x.toNat : Int) - 256)

/-- Adding a delta's `u8` modulo 256 is adding its signed value; a raw field equal to its bias changes nothing. -/
def Obligations.DeltaAdditionIsSigned : Prop :=
  (∀ x d : Byte, ((add8 x d).toNat : Int) = ((x.toNat : Int) + s8 d) % 256) ∧
  (∀ x k : Byte, add8 x (bias k k) = x) ∧
  (∀ x dg d : Byte, add8 (add8 x dg) d = add8 (add8 x d) dg)

/-- R36: the slot of a pixel, and the examples derived from the formula. -/
def Obligations.HashOfPixel : Prop :=
  (∀ p : Pixel, (pixelHash p).toNat = (3 * p.r.toNat + 5 * p.g.toNat + 7 * p.b.toNat + 11 * p.a.toNat) % 64) ∧
  pixelHash ⟨0, 0, 0, 0⟩ = 0 ∧ pixelHash ⟨0, 0, 0, 255⟩ = 53 ∧ pixelHash ⟨10, 20, 30, 255⟩ = 9

/-- The hash computed in 8-bit wraparound arithmetic and cut to 6 bits is the same. -/
def Obligations.HashInWraparoundArithmetic : Prop :=
  ∀ p : Pixel, pixelHash p = (3 * p.r + 5 * p.g + 7 * p.b + 11 * p.a).setWidth 6

/-! ## The instructions' own effects: what each completes with, and its frame -/

/-- END writes `phase` and responds End; nothing else changes, from every state. -/
def Obligations.ExecEndMarkerEndsSession : Prop :=
  ∀ s : State, exec .endMarker s = .next { s with phase := .ended, response := some .endOfStream }

/-- RGB and RGBA produce their literal pixel, RGB with the old `prev`'s alpha; only `prev`, the pixel's slot and the
response are written. -/
def Obligations.ExecLiteralsProducePixel : Prop :=
  (∀ (s : State) (r g b : Byte), ∃ t, exec (.rgb r g b) s = .next t ∧
    t.prev = ⟨r, g, b, s.prev.a⟩ ∧ t.response = some (.pixel ⟨r, g, b, s.prev.a⟩) ∧
    CacheWritten s t ⟨r, g, b, s.prev.a⟩ ∧ t.runActive = s.runActive ∧ t.runRemaining = s.runRemaining ∧
    ExecFrame s t) ∧
  (∀ (s : State) (r g b a : Byte), ∃ t, exec (.rgba r g b a) s = .next t ∧
    t.prev = ⟨r, g, b, a⟩ ∧ t.response = some (.pixel ⟨r, g, b, a⟩) ∧
    CacheWritten s t ⟨r, g, b, a⟩ ∧ t.runActive = s.runActive ∧ t.runRemaining = s.runRemaining ∧
    ExecFrame s t)

/-- INDEX makes the slot's pixel the previous pixel; the cache and all else stay. -/
def Obligations.ExecIndexReadsSlot : Prop :=
  ∀ (s : State) (i : Slot), ∃ t, exec (.index i) s = .next t ∧
    t.prev = s.cache[i.toNat]'i.isLt ∧ t.response = some (.pixel (s.cache[i.toNat]'i.isLt)) ∧
    t.cache = s.cache ∧ t.runActive = s.runActive ∧ t.runRemaining = s.runRemaining ∧ ExecFrame s t

/-- DIFF and LUMA add their signed deltas modulo 256, lane by lane, alpha unchanged; only `prev`, the pixel's slot and the
response are written. -/
def Obligations.ExecDeltasProducePixel : Prop :=
  (∀ (s : State) (dr dg db : Byte), ∃ t, exec (.diff dr dg db) s = .next t ∧
    (t.prev.r.toNat : Int) = ((s.prev.r.toNat : Int) + s8 dr) % 256 ∧
    (t.prev.g.toNat : Int) = ((s.prev.g.toNat : Int) + s8 dg) % 256 ∧
    (t.prev.b.toNat : Int) = ((s.prev.b.toNat : Int) + s8 db) % 256 ∧
    t.prev.a = s.prev.a ∧ t.response = some (.pixel t.prev) ∧ CacheWritten s t t.prev ∧
    t.runActive = s.runActive ∧ t.runRemaining = s.runRemaining ∧ ExecFrame s t) ∧
  (∀ (s : State) (dg drdg dbdg : Byte), ∃ t, exec (.luma dg drdg dbdg) s = .next t ∧
    (t.prev.r.toNat : Int) = ((s.prev.r.toNat : Int) + s8 dg + s8 drdg) % 256 ∧
    (t.prev.g.toNat : Int) = ((s.prev.g.toNat : Int) + s8 dg) % 256 ∧
    (t.prev.b.toNat : Int) = ((s.prev.b.toNat : Int) + s8 dg + s8 dbdg) % 256 ∧
    t.prev.a = s.prev.a ∧ t.response = some (.pixel t.prev) ∧ CacheWritten s t t.prev ∧
    t.runActive = s.runActive ∧ t.runRemaining = s.runRemaining ∧ ExecFrame s t)

/-- RUN sets the count and the flag and emits `prev`; `prev`, the cache and all else stay. -/
def Obligations.ExecRunBeginsRun : Prop :=
  ∀ (s : State) (n : Slot), ∃ t, exec (.run n) s = .next t ∧
    t.runRemaining = n ∧ t.runActive = true ∧ t.response = some (.pixel s.prev) ∧
    t.prev = s.prev ∧ t.cache = s.cache ∧ ExecFrame s t

/-! ## The step -/

/-- A step whose refilled window decodes to `i` is `exec i` on the state with that window, its source and count, the run flag
cleared, the `PULL` taken, and the chunk's size as the next refill. -/
def Obligations.StepRunsDecodedInstruction : Prop :=
  ∀ (s : State) (rest : List Input) (w : Window) (src : Source) (i : Instr),
    WindowReady s rest w src → decodeWindow w = .ok i →
    step s = exec i { s with
      runActive := false, win := w, source := src, pos := s.pos + s.refill.val, inputs := rest,
      refill := if i = .endMarker then s.refill else i.size }

/-- A placed table word is what the next step decodes and runs, from every state. `withFetchWord` is the model's
(notes/assumptions/8.md). -/
def Obligations.PlacedWordRunsNext : Prop :=
  ∀ (s : State) (nbits w : Nat) (i : Instr), decodeTableWord nbits w = some i →
    (s.withFetchWord nbits w).chunkAt = some i ∧
    ∃ t t' : State, step (s.withFetchWord nbits w) = .next t ∧ exec i t' = .next t ∧
      t'.prev = s.prev ∧ t'.cache = s.cache ∧ t'.win.toList = tableBytes nbits w ∧
      t'.inputs = s.inputs ∧ t'.source = s.source

/-- R63: the refilled window, entry by entry; a read that fails raises SOURCE_IO and produces no pixel. -/
def Obligations.RefillShiftsWindow : Prop :=
  ∀ (s : State) (rest : List Input), WindowStepDue s rest →
    (s.source.SuppliesNext → ∀ hn : s.refill.val ≤ s.source.bytes.length,
      ∃ t, step s = .next t ∧ t.source.bytes = s.source.bytes.drop s.refill.val ∧
        ∀ (i : Nat) (hi : i < 8), t.win[i] =
          if h : i + s.refill.val < 8 then s.win[i + s.refill.val]
          else s.source.bytes[i + s.refill.val - 8]'(by omega)) ∧
    ((s.source.SuppliesNext ∧ s.source.bytes.length < s.refill.val) ∨ s.source.answers.head? = some .fail →
      ∃ t, step s = .next t ∧ t.response = some (.fault .sourceIo) ∧ t.phase = .faulted ∧ t.cause = .sourceIo)

/-- R64: END: precedence over every tag, at window steps only; it writes `phase` only. That the step has taken its refill
bytes, as R62 and R64's example say and R31's words deny, is the model's reading (notes/assumptions/20.md). -/
def Obligations.EndMarkerStep : Prop :=
  (∀ (s : State) (rest : List Input) (w : Window) (src : Source), WindowReady s rest w src → IsEndMarker w →
    ∃ t, step s = .next t ∧ t.response = some .endOfStream ∧ t.phase = .ended ∧ t.prev = s.prev ∧
      t.cache = s.cache ∧ t.runActive = false ∧ t.runRemaining = s.runRemaining ∧ t.refill = s.refill ∧
      t.cause = s.cause ∧ t.win = w ∧ t.source = src ∧ t.pos = s.pos + s.refill.val ∧ t.inputs = rest) ∧
  (∀ (s : State) (rest : List Input) (w : Window) (src : Source), WindowReady s rest w src → ¬ IsEndMarker w →
    ∃ t p, step s = .next t ∧ t.response = some (.pixel p) ∧ t.phase = .streaming) ∧
  (∀ (s : State) (rest : List Input), s.inputs = .pull :: rest → s.phase = .streaming → s.runPending = true →
    ∃ t, step s = .next t ∧ t.response = some (.pixel s.prev) ∧ t.phase = .streaming)

/-- R69: ColorRGB at a window step. -/
def Obligations.RgbChunkStep : Prop :=
  ∀ (s : State) (rest : List Input) (w : Window) (src : Source), WindowReady s rest w src → w[0].toNat = 0xFE →
    ∃ t, step s = .next t ∧ t.prev = ⟨w[1], w[2], w[3], s.prev.a⟩ ∧ t.response = some (.pixel t.prev) ∧
      CacheWritten s t t.prev ∧ t.refill.val = 4 ∧ t.runActive = false ∧ t.runRemaining = s.runRemaining ∧
      WindowStepFrame s rest w src t

/-- R70: ColorRGBA at a window step. -/
def Obligations.RgbaChunkStep : Prop :=
  ∀ (s : State) (rest : List Input) (w : Window) (src : Source), WindowReady s rest w src → w[0].toNat = 0xFF →
    ∃ t, step s = .next t ∧ t.prev = ⟨w[1], w[2], w[3], w[4]⟩ ∧ t.response = some (.pixel t.prev) ∧
      CacheWritten s t t.prev ∧ t.refill.val = 5 ∧ t.runActive = false ∧ t.runRemaining = s.runRemaining ∧
      WindowStepFrame s rest w src t

/-- R71: Index at a window step; the cache is not written, and the byte after the tag plays no part. -/
def Obligations.IndexChunkStep : Prop :=
  ∀ (s : State) (rest : List Input) (w : Window) (src : Source), WindowReady s rest w src → ¬ IsEndMarker w →
    ∀ hi : w[0].toNat < 64,
    ∃ t, step s = .next t ∧ t.prev = s.cache[w[0].toNat] ∧ t.response = some (.pixel t.prev) ∧
      t.cache = s.cache ∧ t.refill.val = 1 ∧ t.runActive = false ∧ t.runRemaining = s.runRemaining ∧
      WindowStepFrame s rest w src t

/-- R72: Diff at a window step, each lane as a number. -/
def Obligations.DiffChunkStep : Prop :=
  ∀ (s : State) (rest : List Input) (w : Window) (src : Source), WindowReady s rest w src →
    0x40 ≤ w[0].toNat → w[0].toNat ≤ 0x7F →
    ∃ t, step s = .next t ∧
      (t.prev.r.toNat : Int) = ((s.prev.r.toNat : Int) + (((w[0].toNat / 16 % 4 : Nat) : Int) - (2 : Int))) % 256 ∧
      (t.prev.g.toNat : Int) = ((s.prev.g.toNat : Int) + (((w[0].toNat / 4 % 4 : Nat) : Int) - (2 : Int))) % 256 ∧
      (t.prev.b.toNat : Int) = ((s.prev.b.toNat : Int) + (((w[0].toNat % 4 : Nat) : Int) - (2 : Int))) % 256 ∧
      t.prev.a = s.prev.a ∧ t.response = some (.pixel t.prev) ∧
      CacheWritten s t t.prev ∧ t.refill.val = 1 ∧ t.runActive = false ∧ t.runRemaining = s.runRemaining ∧
      WindowStepFrame s rest w src t

/-- R73: Luma at a window step, each lane as a number; blue uses the LOW nibble of the second byte. -/
def Obligations.LumaChunkStep : Prop :=
  ∀ (s : State) (rest : List Input) (w : Window) (src : Source), WindowReady s rest w src →
    0x80 ≤ w[0].toNat → w[0].toNat ≤ 0xBF →
    ∃ t, step s = .next t ∧
      (t.prev.r.toNat : Int) = ((s.prev.r.toNat : Int) + (((w[0].toNat % 64 : Nat) : Int) - (32 : Int))
        + (((w[1].toNat / 16 : Nat) : Int) - (8 : Int))) % 256 ∧
      (t.prev.g.toNat : Int) = ((s.prev.g.toNat : Int) + (((w[0].toNat % 64 : Nat) : Int) - (32 : Int))) % 256 ∧
      (t.prev.b.toNat : Int) = ((s.prev.b.toNat : Int) + (((w[0].toNat % 64 : Nat) : Int) - (32 : Int))
        + (((w[1].toNat % 16 : Nat) : Int) - (8 : Int))) % 256 ∧
      t.prev.a = s.prev.a ∧ t.response = some (.pixel t.prev) ∧
      CacheWritten s t t.prev ∧ t.refill.val = 2 ∧ t.runActive = false ∧ t.runRemaining = s.runRemaining ∧
      WindowStepFrame s rest w src t

/-- R76: Run at a window step: `prev` and the cache are not written. -/
def Obligations.RunChunkStep : Prop :=
  ∀ (s : State) (rest : List Input) (w : Window) (src : Source), WindowReady s rest w src →
    0xC0 ≤ w[0].toNat → w[0].toNat ≤ 0xFD →
    ∃ t, step s = .next t ∧ t.runRemaining.toNat = w[0].toNat % 64 ∧ t.runActive = true ∧
      t.response = some (.pixel s.prev) ∧ t.prev = s.prev ∧ t.cache = s.cache ∧ t.refill.val = 1 ∧
      WindowStepFrame s rest w src t

/-- R77: a run continuation: no byte is read; the flag is cleared on the last repetition. A window step clears a flag left
set with count 0. -/
def Obligations.RunContinuationStep : Prop :=
  (∀ (s : State) (rest : List Input), s.inputs = .pull :: rest → s.phase = .streaming → s.runActive = true →
    0 < s.runRemaining.toNat →
    ∃ t, step s = .next t ∧ t.runRemaining.toNat = s.runRemaining.toNat - 1 ∧
      (t.runActive = true ↔ 1 < s.runRemaining.toNat) ∧ t.response = some (.pixel s.prev) ∧
      t.prev = s.prev ∧ t.cache = s.cache ∧ t.win = s.win ∧ t.refill = s.refill ∧ t.source = s.source ∧
      t.pos = s.pos ∧ t.phase = s.phase ∧ t.cause = s.cause ∧ t.inputs = rest ∧ t.freeIndex = s.freeIndex) ∧
  (∀ (s : State) (rest : List Input) (w : Window) (src : Source), WindowReady s rest w src →
    (∀ n, decodeWindow w ≠ .ok (.run n)) → ∃ t, step s = .next t ∧ t.runActive = false)

/-- A Run chunk with raw payload n and the n continuation steps after it: n + 1 pixels, all `prev`, one byte of the stream,
and then a window step is due. -/
def Obligations.RunChunkGivesAllItsPixels : Prop :=
  ∀ (s : State) (n : Nat) (rest : List Input) (w : Window) (src : Source),
    WindowReady s (List.replicate n .pull ++ rest) w src →
    0xC0 ≤ w[0].toNat → w[0].toNat ≤ 0xFD → n = w[0].toNat % 64 →
    responsesIn (n + 1) s = List.replicate (n + 1) (.pixel s.prev) ∧
    ∃ t : State, Host.Core.run Sys2Proof.core (n + 1) s = .next t ∧ t.prev = s.prev ∧ t.cache = s.cache ∧
      t.source = src ∧ t.win = w ∧ t.refill.val = 1 ∧ t.pos = s.pos + s.refill.val ∧ t.phase = .streaming ∧
      t.inputs = rest ∧ (t.runActive = false ∨ t.runRemaining.toNat = 0)

/-! ## Responses, faults and the source -/

/-- R79: a completed `PULL` has exactly one response. A `PULL` whose read has no answer yet is not completed: it stays
pending (R109; notes/assumptions/3.md). -/
def Obligations.OneResponseForEachPull : Prop :=
  ∀ (s t : State) (rest : List Input), s.inputs = .pull :: rest → step s = .next t →
    (t.inputs = rest ∧
      ((s.phase = .idle ∧ t.response = some .notStarted) ∨
       (s.phase = .streaming ∧ t.phase = .streaming ∧ ∃ p, t.response = some (.pixel p)) ∨
       (t.phase = .ended ∧ t.response = some .endOfStream) ∨
       (t.phase = .faulted ∧ t.response = some (.fault t.cause)))) ∨
    (t.inputs = s.inputs ∧ t.response = none ∧ ∃ src, s.source.read s.refill.val = .waiting src)

/-- R80: the faults a step raises, and when: SOURCE_IO exactly when the refill's read answers SrcFail, BAD_CHUNK only on a
window that decodes to nothing; never HEADER. -/
def Obligations.FaultsRaisedByStep : Prop :=
  (∀ s t : State, s.phase = .streaming → step s = .next t → t.phase = .faulted →
    (t.cause = .sourceIo ∧ ∃ src, s.source.read s.refill.val = .srcFail src) ∨
    (t.cause = .badChunk ∧ ∃ bs src, s.source.read s.refill.val = .bytes bs src ∧
      ∀ i, decodeWindow (Window.refilled s.win s.refill.val bs) ≠ .ok i)) ∧
  ∀ (s : State) (rest : List Input), WindowStepDue s rest → (∃ src, s.source.read s.refill.val = .srcFail src) →
    ∃ t, step s = .next t ∧ t.phase = .faulted ∧ t.cause = .sourceIo ∧ t.response = some (.fault .sourceIo)

/-- Entering a fault: what it writes and what it keeps; no source read after it in the session; and a failed read takes some
number of bytes from 0 to n, whichever the free value says (notes/assumptions/5.md). -/
def Obligations.FaultEntryKeepsDecoderState : Prop :=
  (∀ s t : State, s.phase = .streaming → step s = .next t → t.phase = .faulted →
    t.response = some (.fault t.cause) ∧ t.cause ≠ .none ∧ t.prev = s.prev ∧ t.cache = s.cache ∧
    t.runRemaining = s.runRemaining ∧ t.refill = s.refill ∧ t.runActive = false) ∧
  (∀ (s t : State) (rest : List Input), s.phase = .faulted → s.inputs = .pull :: rest → step s = .next t →
    t.source = s.source ∧ t.pos = s.pos ∧ t.win = s.win) ∧
  (∀ (s : State) (rest : List Input) (src : Source), WindowStepDue s rest →
    s.source.read s.refill.val = .srcFail src →
    ∃ (t : State) (k : Nat), step s = .next t ∧ k ≤ s.refill.val ∧ t.source.bytes = s.source.bytes.drop k ∧
      t.pos = s.pos + k ∧ t.inputs = rest ∧ t.phase = .faulted)

/-- A read with no answer yet holds all state and leaves the `PULL` pending; a read never answered stops the step, and
nothing else stops a step (notes/assumptions/3.md, 4.md). -/
def Obligations.UnansweredReadHoldsState : Prop :=
  (∀ (s : State) (rest : List Input), WindowStepDue s rest → s.source.answers.head? = some .wait →
    step s = .next { s with source := ⟨s.source.bytes, s.source.answers.tail⟩, response := none }) ∧
  (∀ (s : State) (rest : List Input), WindowStepDue s rest → s.source.answers.head? = some .never →
    step s = .fault .sourceNeverAnswers)

/-- Nothing stops a step but a source that never answers; where every source answers, every step gives a next state, and the
sources still do. -/
def Obligations.AnsweredStepsNeverStop : Prop :=
  (∀ s : State, (∃ t, step s = .next t) ∨
    (step s = .fault .sourceNeverAnswers ∧ s.source.answers.head? = some .never ∧ ∃ rest, WindowStepDue s rest)) ∧
  ∀ s : State, s.sourcesAnswer = true → ∃ t, step s = .next t ∧ t.sourcesAnswer = true

/-- R30: each source byte is read at most once, in stream order, never pushed back: what remains is what was there less some
first bytes, the ghost counts what a successful read takes, and no step but a window step takes any. -/
def Obligations.SourceReadOnceInOrder : Prop :=
  ∀ s t : State, step s = .next t → (∀ src, s.inputs.head? ≠ some (.attach src)) →
    ∃ k ≤ 8, t.source.bytes = s.source.bytes.drop k ∧ k ≤ s.source.bytes.length ∧
      (s.initialises ∨ t.phase = .faulted ∨ t.pos = s.pos + k) ∧ ((∀ rest, ¬ WindowStepDue s rest) → k = 0)

/-- The bytes past the refill play no part in a step, however the source answers: of two states that differ only in them,
both stop or both step, and to states that differ only in the source's bytes. Where the read fails, that `win` and `pos`
agree in the two is the model's, not the spec's, which leaves both at any value (R29): it holds because the two states share
one `freeIndex` (notes/assumptions/5.md, 6.md). -/
def Obligations.StepIgnoresUnreadBytes : Prop :=
  ∀ (s : State) (xs ys zs : List Byte) (answers : List Answer) (t : State), xs.length = s.refill.val →
    step { s with source := ⟨xs ++ ys, answers⟩ } = .next t →
    ∃ u : State, step { s with source := ⟨xs ++ zs, answers⟩ } = .next u ∧
      t = { u with source := t.source } ∧ t.source.answers = u.source.answers

/-! ## Whole-machine rules about the cache, `prev` and the run state -/

/-- R38: the cache is written only at the slot of the pixel a ColorRGB, ColorRGBA, Diff or Luma chunk has just produced, and
always by these; session initialisation is the only other writer. -/
def Obligations.CacheWrittenOnlyByItsChunks : Prop :=
  (∀ (s t : State) (j : Fin 64), step s = .next t → t.cache[j] ≠ s.cache[j] →
    s.initialises ∨
    (slotNumber t.prev = j.val ∧ t.cache[j] = t.prev ∧ t.response = some (.pixel t.prev) ∧
      ((∃ r g b, s.chunkAt = some (.rgb r g b)) ∨ (∃ r g b a, s.chunkAt = some (.rgba r g b a)) ∨
       (∃ dr dg db, s.chunkAt = some (.diff dr dg db)) ∨ (∃ dg drdg dbdg, s.chunkAt = some (.luma dg drdg dbdg))))) ∧
  (∀ (s t : State), step s = .next t →
    ((∃ r g b, s.chunkAt = some (.rgb r g b)) ∨ (∃ r g b a, s.chunkAt = some (.rgba r g b a)) ∨
     (∃ dr dg db, s.chunkAt = some (.diff dr dg db)) ∨ (∃ dg drdg dbdg, s.chunkAt = some (.luma dg drdg dbdg))) →
    CacheWritten s t t.prev)

/-- `prev` is written only by a chunk that is no Run, and by session initialisation; its alpha only by ColorRGBA and
Index. -/
def Obligations.PrevAndAlphaWriters : Prop :=
  ∀ s t : State, step s = .next t → ¬ s.initialises →
    (t.prev ≠ s.prev → t.response = some (.pixel t.prev) ∧
      ∃ i, s.chunkAt = some i ∧ i ≠ .endMarker ∧ ∀ n, i ≠ .run n) ∧
    (t.prev.a ≠ s.prev.a → (∃ r g b a, s.chunkAt = some (.rgba r g b a)) ∨ ∃ i, s.chunkAt = some (.index i))

/-- The run flag and counter after a completed `PULL` in STREAMING, and everywhere else unchanged or initialised: a `PULL`
that stays pending because its read waits leaves both alone (notes/assumptions/3.md). -/
def Obligations.RunFlagAndCounterWriters : Prop :=
  (∀ (s t : State) (rest : List Input), s.inputs = .pull :: rest → s.phase = .streaming → step s = .next t →
    t.inputs = rest →
    (t.runActive = true ↔
      (∃ n, s.chunkAt = some (.run n)) ∨ (s.runActive = true ∧ 1 < s.runRemaining.toNat)) ∧
    (∀ n, s.chunkAt = some (.run n) → t.runRemaining = n) ∧
    ((∀ n, s.chunkAt ≠ some (.run n)) →
      t.runRemaining.toNat = s.runRemaining.toNat - (if s.runPending then 1 else 0))) ∧
  (∀ s t : State, step s = .next t → s.initialises → t.runActive = false ∧ t.runRemaining = 0) ∧
  (∀ s t : State, step s = .next t → ¬ s.initialises →
    s.inputs.head? ≠ some .pull ∨ s.phase ≠ .streaming ∨ t.inputs = s.inputs →
    t.runActive = s.runActive ∧ t.runRemaining = s.runRemaining)

/-! ## Whole sessions -/

/-- After a window step of a session succeeds, the block has taken 8 bytes and the sizes of the chunks decoded at the window
steps before it. -/
def Obligations.LookaheadConsumption : Prop :=
  ∀ (s t : State) (k : Nat), SessionInitial .streaming s → s.pos = 0 → s.inputs = List.replicate k .pull →
    Host.Core.run Sys2Proof.core k s = .next t → t.phase ≠ .faulted → chunksIn k s ≠ [] →
    t.pos = 8 + totalSize (chunksIn k s).dropLast ∧
    t.source.bytes = s.source.bytes.drop t.pos

/-- While a session whose reads are all answered at once has reached no terminal, its steps number at most 62 times the bytes
of the chunks decoded. -/
def Obligations.SessionStepBound : Prop :=
  ∀ (s t : State) (k : Nat), SessionInitial .streaming s → s.inputs = List.replicate k .pull →
    s.source.answers = [] → Host.Core.run Sys2Proof.core k s = .next t → t.phase = .streaming →
    k ≤ 62 * totalSize (chunksIn k s)

/-- A session on a finite stream whose reads are all answered reaches a terminal within 62 times the stream's bytes, plus
one. -/
def Obligations.FiniteStreamReachesTerminal : Prop :=
  ∀ (s : State), SessionInitial .streaming s → s.source.answers = [] →
    s.inputs = List.replicate (62 * s.source.bytes.length + 1) .pull →
    ∃ t : State, Host.Core.run Sys2Proof.core (62 * s.source.bytes.length + 1) s = .next t ∧
      (t.phase = .ended ∨ t.phase = .faulted)

/-- HEADLINE. A stream of well-formed chunks and the end marker, in which no chunk start aliases the marker, decodes to the
pixels of the reference decoder and then End: every pixel, in order, and no more; the cache holds in each slot the most
recently written pixel of that slot, and the bytes after the marker are not read. -/
def Obligations.StreamDecodesToReferencePixels : Prop :=
  ∀ (s : State) (cs : List Instr) (tail : List Byte) (rest : List Input),
    (∀ i ∈ cs, i.wellFormed = true ∧ i ≠ .endMarker) → noAlias (encode .endMarker ++ tail) cs = true →
    s.source = ⟨encodeAll cs ++ encode .endMarker ++ tail, []⟩ →
    s.inputs = .start :: (List.replicate ((Picture.blank.drawAll cs).out.length + 1) .pull ++ rest) →
    responsesIn ((Picture.blank.drawAll cs).out.length + 2) s =
      (Picture.blank.drawAll cs).out.map .pixel ++ [.endOfStream] ∧
    ∃ t : State, Host.Core.run Sys2Proof.core ((Picture.blank.drawAll cs).out.length + 2) s = .next t ∧
      t.phase = .ended ∧ t.prev = (Picture.blank.drawAll cs).prev ∧ t.source = ⟨tail, []⟩ ∧
      t.pos = totalSize cs + 8 ∧ t.inputs = rest ∧
      ∀ j : Fin 64, t.cache[j] = lastWritten (Picture.blank.drawAll cs).seen j.val

/-! ## The outside of the block -/

/-- The header stage takes exactly 14 bytes, faults on a short header and on other magic bytes, and `START` follows a source
at the first chunk byte. The magic's bytes are the spec's general knowledge (notes/assumptions/15.md). -/
def Obligations.HeaderStageHandsOverChunks : Prop :=
  (∀ (hd rest : List Byte), hd.length = 14 → hd.take 4 = [0x71, 0x6F, 0x69, 0x66] →
    hd[12]? = some 3 ∨ hd[12]? = some 4 →
    bootInputs (hd ++ rest) = [.attach ⟨rest, []⟩, .start] ∧ headerContract false (bootInputs (hd ++ rest)) = true) ∧
  (∀ file : List Byte, file.length < 14 ∨ file.take 4 ≠ [0x71, 0x6F, 0x69, 0x66] → bootInputs file = [])

/-- Several blocks share nothing (R90). A step of one leaves every other as it was, and their steps commute; over any
schedule a block ends where as many steps of its own would take it alone, with the same responses; and so, whatever the other
blocks are and whenever they step, a block whose source holds a well-formed stream responds with the reference decoder's
pixels of its OWN stream and then End. The list of blocks stepped by number is the model's (notes/assumptions/22.md). -/
def Obligations.BlocksAreIndependent : Prop :=
  (∀ (blocks : List State) (j k : Nat), j ≠ k →
    (stepBlock j blocks)[k]? = blocks[k]? ∧
    stepBlock j (stepBlock k blocks) = stepBlock k (stepBlock j blocks)) ∧
  (∀ (blocks : List State) (sched : List Nat) (k : Nat) (s t : State), blocks[k]? = some s →
    Host.Core.run Sys2Proof.core (sched.count k) s = .next t →
    (runSchedule sched blocks)[k]? = some t ∧ blockResponses k sched blocks = responsesIn (sched.count k) s) ∧
  (∀ (blocks : List State) (sched : List Nat) (k : Nat) (s : State) (cs : List Instr) (tail : List Byte)
      (rest : List Input),
    blocks[k]? = some s → (∀ i ∈ cs, i.wellFormed = true ∧ i ≠ .endMarker) →
    noAlias (encode .endMarker ++ tail) cs = true → s.source = ⟨encodeAll cs ++ encode .endMarker ++ tail, []⟩ →
    s.inputs = .start :: (List.replicate ((Picture.blank.drawAll cs).out.length + 1) .pull ++ rest) →
    sched.count k = (Picture.blank.drawAll cs).out.length + 2 →
    blockResponses k sched blocks = (Picture.blank.drawAll cs).out.map .pixel ++ [.endOfStream] ∧
    ∃ t : State, (runSchedule sched blocks)[k]? = some t ∧ t.phase = .ended ∧
      t.prev = (Picture.blank.drawAll cs).prev ∧ t.source = ⟨tail, []⟩)
end

