-- ==== Sys2Proof/Laws/State.lean ====
section
/-! SUPPORT. What each shared operation makes of each field of State, one lemma a field, so that no proof unfolds a record
update. -/

namespace Sys2Proof.Machine

open Sys2Proof

/-! ### initialise -/

@[simp] theorem State.initialise_phase (s : State) (p : Phase) : (s.initialise p).phase = p := rfl
@[simp] theorem State.initialise_cause (s : State) (p : Phase) : (s.initialise p).cause = .none := rfl
@[simp] theorem State.initialise_prev (s : State) (p : Phase) : (s.initialise p).prev = .blackOpaque := rfl
@[simp] theorem State.initialise_cache (s : State) (p : Phase) : (s.initialise p).cache = Vector.replicate 64 .zero := rfl
@[simp] theorem State.initialise_runActive (s : State) (p : Phase) : (s.initialise p).runActive = false := rfl
@[simp] theorem State.initialise_runRemaining (s : State) (p : Phase) : (s.initialise p).runRemaining = 0 := rfl
@[simp] theorem State.initialise_win (s : State) (p : Phase) : (s.initialise p).win = Vector.replicate 8 0 := rfl
@[simp] theorem State.initialise_refill (s : State) (p : Phase) : (s.initialise p).refill = 8 := rfl
@[simp] theorem State.initialise_pos (s : State) (p : Phase) : (s.initialise p).pos = 0 := rfl
@[simp] theorem State.initialise_source (s : State) (p : Phase) : (s.initialise p).source = s.source := rfl
@[simp] theorem State.initialise_inputs (s : State) (p : Phase) : (s.initialise p).inputs = s.inputs := rfl
@[simp] theorem State.initialise_response (s : State) (p : Phase) : (s.initialise p).response = none := rfl
@[simp] theorem State.initialise_freeIndex (s : State) (p : Phase) : (s.initialise p).freeIndex = s.freeIndex := rfl

/-! ### respond -/

@[simp] theorem State.respond_phase (s : State) (r : Response) : (s.respond r).phase = s.phase := rfl
@[simp] theorem State.respond_cause (s : State) (r : Response) : (s.respond r).cause = s.cause := rfl
@[simp] theorem State.respond_prev (s : State) (r : Response) : (s.respond r).prev = s.prev := rfl
@[simp] theorem State.respond_cache (s : State) (r : Response) : (s.respond r).cache = s.cache := rfl
@[simp] theorem State.respond_runActive (s : State) (r : Response) : (s.respond r).runActive = s.runActive := rfl
@[simp] theorem State.respond_runRemaining (s : State) (r : Response) : (s.respond r).runRemaining = s.runRemaining := rfl
@[simp] theorem State.respond_win (s : State) (r : Response) : (s.respond r).win = s.win := rfl
@[simp] theorem State.respond_refill (s : State) (r : Response) : (s.respond r).refill = s.refill := rfl
@[simp] theorem State.respond_pos (s : State) (r : Response) : (s.respond r).pos = s.pos := rfl
@[simp] theorem State.respond_source (s : State) (r : Response) : (s.respond r).source = s.source := rfl
@[simp] theorem State.respond_inputs (s : State) (r : Response) : (s.respond r).inputs = s.inputs := rfl
@[simp] theorem State.respond_response (s : State) (r : Response) : (s.respond r).response = some r := rfl
@[simp] theorem State.respond_freeIndex (s : State) (r : Response) : (s.respond r).freeIndex = s.freeIndex := rfl

/-! ### silent -/

@[simp] theorem State.silent_phase (s : State) : (s.silent).phase = s.phase := rfl
@[simp] theorem State.silent_cause (s : State) : (s.silent).cause = s.cause := rfl
@[simp] theorem State.silent_prev (s : State) : (s.silent).prev = s.prev := rfl
@[simp] theorem State.silent_cache (s : State) : (s.silent).cache = s.cache := rfl
@[simp] theorem State.silent_runActive (s : State) : (s.silent).runActive = s.runActive := rfl
@[simp] theorem State.silent_runRemaining (s : State) : (s.silent).runRemaining = s.runRemaining := rfl
@[simp] theorem State.silent_win (s : State) : (s.silent).win = s.win := rfl
@[simp] theorem State.silent_refill (s : State) : (s.silent).refill = s.refill := rfl
@[simp] theorem State.silent_pos (s : State) : (s.silent).pos = s.pos := rfl
@[simp] theorem State.silent_source (s : State) : (s.silent).source = s.source := rfl
@[simp] theorem State.silent_inputs (s : State) : (s.silent).inputs = s.inputs := rfl
@[simp] theorem State.silent_response (s : State) : (s.silent).response = none := rfl
@[simp] theorem State.silent_freeIndex (s : State) : (s.silent).freeIndex = s.freeIndex := rfl

/-! ### raiseFault -/

@[simp] theorem State.raiseFault_phase (s : State) (c : Cause) : (s.raiseFault c).phase = .faulted := rfl
@[simp] theorem State.raiseFault_cause (s : State) (c : Cause) : (s.raiseFault c).cause = c := rfl
@[simp] theorem State.raiseFault_prev (s : State) (c : Cause) : (s.raiseFault c).prev = s.prev := rfl
@[simp] theorem State.raiseFault_cache (s : State) (c : Cause) : (s.raiseFault c).cache = s.cache := rfl
@[simp] theorem State.raiseFault_runActive (s : State) (c : Cause) : (s.raiseFault c).runActive = s.runActive := rfl
@[simp] theorem State.raiseFault_runRemaining (s : State) (c : Cause) : (s.raiseFault c).runRemaining = s.runRemaining := rfl
@[simp] theorem State.raiseFault_win (s : State) (c : Cause) : (s.raiseFault c).win = s.win := rfl
@[simp] theorem State.raiseFault_refill (s : State) (c : Cause) : (s.raiseFault c).refill = s.refill := rfl
@[simp] theorem State.raiseFault_pos (s : State) (c : Cause) : (s.raiseFault c).pos = s.pos := rfl
@[simp] theorem State.raiseFault_source (s : State) (c : Cause) : (s.raiseFault c).source = s.source := rfl
@[simp] theorem State.raiseFault_inputs (s : State) (c : Cause) : (s.raiseFault c).inputs = s.inputs := rfl
@[simp] theorem State.raiseFault_response (s : State) (c : Cause) : (s.raiseFault c).response = some (.fault c) := rfl
@[simp] theorem State.raiseFault_freeIndex (s : State) (c : Cause) : (s.raiseFault c).freeIndex = s.freeIndex := rfl

/-! ### finish -/

@[simp] theorem State.finish_phase (s : State) : (s.finish).phase = .ended := rfl
@[simp] theorem State.finish_cause (s : State) : (s.finish).cause = s.cause := rfl
@[simp] theorem State.finish_prev (s : State) : (s.finish).prev = s.prev := rfl
@[simp] theorem State.finish_cache (s : State) : (s.finish).cache = s.cache := rfl
@[simp] theorem State.finish_runActive (s : State) : (s.finish).runActive = s.runActive := rfl
@[simp] theorem State.finish_runRemaining (s : State) : (s.finish).runRemaining = s.runRemaining := rfl
@[simp] theorem State.finish_win (s : State) : (s.finish).win = s.win := rfl
@[simp] theorem State.finish_refill (s : State) : (s.finish).refill = s.refill := rfl
@[simp] theorem State.finish_pos (s : State) : (s.finish).pos = s.pos := rfl
@[simp] theorem State.finish_source (s : State) : (s.finish).source = s.source := rfl
@[simp] theorem State.finish_inputs (s : State) : (s.finish).inputs = s.inputs := rfl
@[simp] theorem State.finish_response (s : State) : (s.finish).response = some .endOfStream := rfl
@[simp] theorem State.finish_freeIndex (s : State) : (s.finish).freeIndex = s.freeIndex := rfl

/-! ### cacheWrite -/

@[simp] theorem State.cacheWrite_phase (s : State) (i : Slot) (p : Pixel) : (s.cacheWrite i p).phase = s.phase := rfl
@[simp] theorem State.cacheWrite_cause (s : State) (i : Slot) (p : Pixel) : (s.cacheWrite i p).cause = s.cause := rfl
@[simp] theorem State.cacheWrite_prev (s : State) (i : Slot) (p : Pixel) : (s.cacheWrite i p).prev = s.prev := rfl
@[simp] theorem State.cacheWrite_cache (s : State) (i : Slot) (p : Pixel) : (s.cacheWrite i p).cache = s.cache.set i.toNat p i.isLt := rfl
@[simp] theorem State.cacheWrite_runActive (s : State) (i : Slot) (p : Pixel) : (s.cacheWrite i p).runActive = s.runActive := rfl
@[simp] theorem State.cacheWrite_runRemaining (s : State) (i : Slot) (p : Pixel) : (s.cacheWrite i p).runRemaining = s.runRemaining := rfl
@[simp] theorem State.cacheWrite_win (s : State) (i : Slot) (p : Pixel) : (s.cacheWrite i p).win = s.win := rfl
@[simp] theorem State.cacheWrite_refill (s : State) (i : Slot) (p : Pixel) : (s.cacheWrite i p).refill = s.refill := rfl
@[simp] theorem State.cacheWrite_pos (s : State) (i : Slot) (p : Pixel) : (s.cacheWrite i p).pos = s.pos := rfl
@[simp] theorem State.cacheWrite_source (s : State) (i : Slot) (p : Pixel) : (s.cacheWrite i p).source = s.source := rfl
@[simp] theorem State.cacheWrite_inputs (s : State) (i : Slot) (p : Pixel) : (s.cacheWrite i p).inputs = s.inputs := rfl
@[simp] theorem State.cacheWrite_response (s : State) (i : Slot) (p : Pixel) : (s.cacheWrite i p).response = s.response := rfl
@[simp] theorem State.cacheWrite_freeIndex (s : State) (i : Slot) (p : Pixel) : (s.cacheWrite i p).freeIndex = s.freeIndex := rfl

/-! ### emit -/

@[simp] theorem State.emit_phase (s : State) (p : Pixel) : (s.emit p).phase = s.phase := rfl
@[simp] theorem State.emit_cause (s : State) (p : Pixel) : (s.emit p).cause = s.cause := rfl
@[simp] theorem State.emit_prev (s : State) (p : Pixel) : (s.emit p).prev = p := rfl
@[simp] theorem State.emit_cache (s : State) (p : Pixel) : (s.emit p).cache = s.cache := rfl
@[simp] theorem State.emit_runActive (s : State) (p : Pixel) : (s.emit p).runActive = s.runActive := rfl
@[simp] theorem State.emit_runRemaining (s : State) (p : Pixel) : (s.emit p).runRemaining = s.runRemaining := rfl
@[simp] theorem State.emit_win (s : State) (p : Pixel) : (s.emit p).win = s.win := rfl
@[simp] theorem State.emit_refill (s : State) (p : Pixel) : (s.emit p).refill = s.refill := rfl
@[simp] theorem State.emit_pos (s : State) (p : Pixel) : (s.emit p).pos = s.pos := rfl
@[simp] theorem State.emit_source (s : State) (p : Pixel) : (s.emit p).source = s.source := rfl
@[simp] theorem State.emit_inputs (s : State) (p : Pixel) : (s.emit p).inputs = s.inputs := rfl
@[simp] theorem State.emit_response (s : State) (p : Pixel) : (s.emit p).response = some (.pixel p) := rfl
@[simp] theorem State.emit_freeIndex (s : State) (p : Pixel) : (s.emit p).freeIndex = s.freeIndex := rfl

/-! ### produce -/

@[simp] theorem State.produce_phase (s : State) (p : Pixel) : (s.produce p).phase = s.phase := rfl
@[simp] theorem State.produce_cause (s : State) (p : Pixel) : (s.produce p).cause = s.cause := rfl
@[simp] theorem State.produce_prev (s : State) (p : Pixel) : (s.produce p).prev = p := rfl
@[simp] theorem State.produce_cache (s : State) (p : Pixel) : (s.produce p).cache = (s.cacheWrite (pixelHash p) p).cache := rfl
@[simp] theorem State.produce_runActive (s : State) (p : Pixel) : (s.produce p).runActive = s.runActive := rfl
@[simp] theorem State.produce_runRemaining (s : State) (p : Pixel) : (s.produce p).runRemaining = s.runRemaining := rfl
@[simp] theorem State.produce_win (s : State) (p : Pixel) : (s.produce p).win = s.win := rfl
@[simp] theorem State.produce_refill (s : State) (p : Pixel) : (s.produce p).refill = s.refill := rfl
@[simp] theorem State.produce_pos (s : State) (p : Pixel) : (s.produce p).pos = s.pos := rfl
@[simp] theorem State.produce_source (s : State) (p : Pixel) : (s.produce p).source = s.source := rfl
@[simp] theorem State.produce_inputs (s : State) (p : Pixel) : (s.produce p).inputs = s.inputs := rfl
@[simp] theorem State.produce_response (s : State) (p : Pixel) : (s.produce p).response = some (.pixel p) := rfl
@[simp] theorem State.produce_freeIndex (s : State) (p : Pixel) : (s.produce p).freeIndex = s.freeIndex := rfl

/-! ### setRun -/

@[simp] theorem State.setRun_phase (s : State) (n : BitVec 6) : (s.setRun n).phase = s.phase := rfl
@[simp] theorem State.setRun_cause (s : State) (n : BitVec 6) : (s.setRun n).cause = s.cause := rfl
@[simp] theorem State.setRun_prev (s : State) (n : BitVec 6) : (s.setRun n).prev = s.prev := rfl
@[simp] theorem State.setRun_cache (s : State) (n : BitVec 6) : (s.setRun n).cache = s.cache := rfl
@[simp] theorem State.setRun_runActive (s : State) (n : BitVec 6) : (s.setRun n).runActive = true := rfl
@[simp] theorem State.setRun_runRemaining (s : State) (n : BitVec 6) : (s.setRun n).runRemaining = n := rfl
@[simp] theorem State.setRun_win (s : State) (n : BitVec 6) : (s.setRun n).win = s.win := rfl
@[simp] theorem State.setRun_refill (s : State) (n : BitVec 6) : (s.setRun n).refill = s.refill := rfl
@[simp] theorem State.setRun_pos (s : State) (n : BitVec 6) : (s.setRun n).pos = s.pos := rfl
@[simp] theorem State.setRun_source (s : State) (n : BitVec 6) : (s.setRun n).source = s.source := rfl
@[simp] theorem State.setRun_inputs (s : State) (n : BitVec 6) : (s.setRun n).inputs = s.inputs := rfl
@[simp] theorem State.setRun_response (s : State) (n : BitVec 6) : (s.setRun n).response = s.response := rfl
@[simp] theorem State.setRun_freeIndex (s : State) (n : BitVec 6) : (s.setRun n).freeIndex = s.freeIndex := rfl

/-! ### countRun -/

@[simp] theorem State.countRun_phase (s : State) : (s.countRun).phase = s.phase := rfl
@[simp] theorem State.countRun_cause (s : State) : (s.countRun).cause = s.cause := rfl
@[simp] theorem State.countRun_prev (s : State) : (s.countRun).prev = s.prev := rfl
@[simp] theorem State.countRun_cache (s : State) : (s.countRun).cache = s.cache := rfl
@[simp] theorem State.countRun_runActive (s : State) : (s.countRun).runActive = (if s.runRemaining - 1 = 0 then false else s.runActive) := rfl
@[simp] theorem State.countRun_runRemaining (s : State) : (s.countRun).runRemaining = s.runRemaining - 1 := rfl
@[simp] theorem State.countRun_win (s : State) : (s.countRun).win = s.win := rfl
@[simp] theorem State.countRun_refill (s : State) : (s.countRun).refill = s.refill := rfl
@[simp] theorem State.countRun_pos (s : State) : (s.countRun).pos = s.pos := rfl
@[simp] theorem State.countRun_source (s : State) : (s.countRun).source = s.source := rfl
@[simp] theorem State.countRun_inputs (s : State) : (s.countRun).inputs = s.inputs := rfl
@[simp] theorem State.countRun_response (s : State) : (s.countRun).response = s.response := rfl
@[simp] theorem State.countRun_freeIndex (s : State) : (s.countRun).freeIndex = s.freeIndex := rfl

/-! ### refillWindow -/

@[simp] theorem State.refillWindow_phase (s : State) (bs : List Byte) (src : Source) : (s.refillWindow bs src).phase = s.phase := rfl
@[simp] theorem State.refillWindow_cause (s : State) (bs : List Byte) (src : Source) : (s.refillWindow bs src).cause = s.cause := rfl
@[simp] theorem State.refillWindow_prev (s : State) (bs : List Byte) (src : Source) : (s.refillWindow bs src).prev = s.prev := rfl
@[simp] theorem State.refillWindow_cache (s : State) (bs : List Byte) (src : Source) : (s.refillWindow bs src).cache = s.cache := rfl
@[simp] theorem State.refillWindow_runActive (s : State) (bs : List Byte) (src : Source) : (s.refillWindow bs src).runActive = false := rfl
@[simp] theorem State.refillWindow_runRemaining (s : State) (bs : List Byte) (src : Source) : (s.refillWindow bs src).runRemaining = s.runRemaining := rfl
@[simp] theorem State.refillWindow_win (s : State) (bs : List Byte) (src : Source) : (s.refillWindow bs src).win = Window.refilled s.win s.refill.val bs := rfl
@[simp] theorem State.refillWindow_refill (s : State) (bs : List Byte) (src : Source) : (s.refillWindow bs src).refill = s.refill := rfl
@[simp] theorem State.refillWindow_pos (s : State) (bs : List Byte) (src : Source) : (s.refillWindow bs src).pos = s.pos + s.refill.val := rfl
@[simp] theorem State.refillWindow_source (s : State) (bs : List Byte) (src : Source) : (s.refillWindow bs src).source = src := rfl
@[simp] theorem State.refillWindow_inputs (s : State) (bs : List Byte) (src : Source) : (s.refillWindow bs src).inputs = s.inputs := rfl
@[simp] theorem State.refillWindow_response (s : State) (bs : List Byte) (src : Source) : (s.refillWindow bs src).response = s.response := rfl
@[simp] theorem State.refillWindow_freeIndex (s : State) (bs : List Byte) (src : Source) : (s.refillWindow bs src).freeIndex = s.freeIndex := rfl

/-! ### failRead -/

@[simp] theorem State.failRead_phase (s : State) (src : Source) : (s.failRead src).phase = .faulted := rfl
@[simp] theorem State.failRead_cause (s : State) (src : Source) : (s.failRead src).cause = .sourceIo := rfl
@[simp] theorem State.failRead_prev (s : State) (src : Source) : (s.failRead src).prev = s.prev := rfl
@[simp] theorem State.failRead_cache (s : State) (src : Source) : (s.failRead src).cache = s.cache := rfl
@[simp] theorem State.failRead_runActive (s : State) (src : Source) : (s.failRead src).runActive = false := rfl
@[simp] theorem State.failRead_runRemaining (s : State) (src : Source) : (s.failRead src).runRemaining = s.runRemaining := rfl
@[simp] theorem State.failRead_win (s : State) (src : Source) : (s.failRead src).win = Config.freeWindow s.freeIndex := rfl
@[simp] theorem State.failRead_refill (s : State) (src : Source) : (s.failRead src).refill = s.refill := rfl
@[simp] theorem State.failRead_pos (s : State) (src : Source) : (s.failRead src).pos = s.pos + takenByFailure s.freeIndex s.refill.val src.bytes.length := rfl
@[simp] theorem State.failRead_source (s : State) (src : Source) : (s.failRead src).source = ⟨src.bytes.drop (takenByFailure s.freeIndex s.refill.val src.bytes.length), src.answers⟩ := rfl
@[simp] theorem State.failRead_inputs (s : State) (src : Source) : (s.failRead src).inputs = s.inputs := rfl
@[simp] theorem State.failRead_response (s : State) (src : Source) : (s.failRead src).response = some (.fault .sourceIo) := rfl
@[simp] theorem State.failRead_freeIndex (s : State) (src : Source) : (s.failRead src).freeIndex = s.freeIndex + 1 := rfl

/-! ### placeBytes -/

@[simp] theorem State.placeBytes_phase (s : State) (bs : List Byte) : (s.placeBytes bs).phase = .streaming := rfl
@[simp] theorem State.placeBytes_cause (s : State) (bs : List Byte) : (s.placeBytes bs).cause = .none := rfl
@[simp] theorem State.placeBytes_prev (s : State) (bs : List Byte) : (s.placeBytes bs).prev = s.prev := rfl
@[simp] theorem State.placeBytes_cache (s : State) (bs : List Byte) : (s.placeBytes bs).cache = s.cache := rfl
@[simp] theorem State.placeBytes_runActive (s : State) (bs : List Byte) : (s.placeBytes bs).runActive = false := rfl
@[simp] theorem State.placeBytes_runRemaining (s : State) (bs : List Byte) : (s.placeBytes bs).runRemaining = s.runRemaining := rfl
@[simp] theorem State.placeBytes_win (s : State) (bs : List Byte) : (s.placeBytes bs).win = s.win := rfl
@[simp] theorem State.placeBytes_refill (s : State) (bs : List Byte) : (s.placeBytes bs).refill = 8 := rfl
@[simp] theorem State.placeBytes_pos (s : State) (bs : List Byte) : (s.placeBytes bs).pos = s.pos := rfl
@[simp] theorem State.placeBytes_source (s : State) (bs : List Byte) : (s.placeBytes bs).source = ⟨bs ++ s.source.bytes, .supply :: s.source.answers⟩ := rfl
@[simp] theorem State.placeBytes_inputs (s : State) (bs : List Byte) : (s.placeBytes bs).inputs = .pull :: s.inputs := rfl
@[simp] theorem State.placeBytes_response (s : State) (bs : List Byte) : (s.placeBytes bs).response = s.response := rfl
@[simp] theorem State.placeBytes_freeIndex (s : State) (bs : List Byte) : (s.placeBytes bs).freeIndex = s.freeIndex := rfl

/-! ### setRefill -/

@[simp] theorem State.setRefill_phase (s : State) (i : Instr) : (s.setRefill i).phase = s.phase := by cases i <;> rfl
@[simp] theorem State.setRefill_cause (s : State) (i : Instr) : (s.setRefill i).cause = s.cause := by cases i <;> rfl
@[simp] theorem State.setRefill_prev (s : State) (i : Instr) : (s.setRefill i).prev = s.prev := by cases i <;> rfl
@[simp] theorem State.setRefill_cache (s : State) (i : Instr) : (s.setRefill i).cache = s.cache := by cases i <;> rfl
@[simp] theorem State.setRefill_runActive (s : State) (i : Instr) : (s.setRefill i).runActive = s.runActive := by cases i <;> rfl
@[simp] theorem State.setRefill_runRemaining (s : State) (i : Instr) : (s.setRefill i).runRemaining = s.runRemaining := by cases i <;> rfl
@[simp] theorem State.setRefill_win (s : State) (i : Instr) : (s.setRefill i).win = s.win := by cases i <;> rfl
@[simp] theorem State.setRefill_pos (s : State) (i : Instr) : (s.setRefill i).pos = s.pos := by cases i <;> rfl
@[simp] theorem State.setRefill_source (s : State) (i : Instr) : (s.setRefill i).source = s.source := by cases i <;> rfl
@[simp] theorem State.setRefill_inputs (s : State) (i : Instr) : (s.setRefill i).inputs = s.inputs := by cases i <;> rfl
@[simp] theorem State.setRefill_response (s : State) (i : Instr) : (s.setRefill i).response = s.response := by cases i <;> rfl
@[simp] theorem State.setRefill_freeIndex (s : State) (i : Instr) : (s.setRefill i).freeIndex = s.freeIndex := by cases i <;> rfl

/-- The end marker is no chunk: the count stays (spec/40_step_and_window.md R64). -/
@[simp] theorem State.setRefill_endMarker (s : State) : s.setRefill .endMarker = s := rfl

/-- A chunk's wire size becomes the count (spec/40_step_and_window.md R65). -/
theorem State.setRefill_refill (s : State) (i : Instr) (h : i ≠ .endMarker) : (s.setRefill i).refill = i.size := by
  cases i <;> first | exact absurd rfl h | rfl

end Sys2Proof.Machine
end

