-- ==== Sys2Proof/Laws/Cache.lean ====
section
/-! SUPPORT. The pixel cache: read after write, and the hash as a number (spec/20_memory.md R36 to R38). -/

namespace Sys2Proof.Machine

open Sys2Proof

/-- The hash is the slot number (spec/20_memory.md R36). -/
@[simp] theorem pixelHash_toNat (p : Pixel) : (pixelHash p).toNat = slotNumber p := by
  simp [pixelHash, slotNumber, BitVec.toNat_ofNat]

theorem slotNumber_lt (p : Pixel) : slotNumber p < 64 := Nat.mod_lt _ (by decide)

/-- A read after a write to the same slot gives the pixel written. -/
@[simp] theorem cacheRead_cacheWrite_same (s : State) (i : Slot) (p : Pixel) : (s.cacheWrite i p).cacheRead i = p := by
  simp [State.cacheRead]

/-- A write leaves every other slot alone. -/
theorem cacheRead_cacheWrite_other (s : State) (i j : Slot) (p : Pixel) (h : i ≠ j) :
    (s.cacheWrite i p).cacheRead j = s.cacheRead j := by
  have : i.toNat ≠ j.toNat := fun e => h (BitVec.eq_of_toNat_eq e)
  simp [State.cacheRead, this]

/-- What one cache write makes of a slot, by the slot's number. -/
theorem cacheWrite_slot (s : State) (p : Pixel) (j : Fin 64) :
    (s.cacheWrite (pixelHash p) p).cache[j] = if j.val = slotNumber p then p else s.cache[j] := by
  simp [Vector.getElem_set, eq_comm]

/-- The produced pixel's slot is written and no other (spec/20_memory.md R38). -/
theorem produce_cacheWritten (s : State) (p : Pixel) : CacheWritten s (s.produce p) p := fun j => by
  rw [State.produce_cache]
  exact cacheWrite_slot s p j

end Sys2Proof.Machine
end

