-- ==== Sys2Proof/Laws/Instances.lean ====
section
/-! SUPPORT. Everything a step of one block can do to the list of blocks, and what it responds. -/

namespace Sys2Proof.Machine

open Sys2Proof

theorem stepBlock_of_step {k : Nat} {blocks : List State} {s t : State} (hk : blocks[k]? = some s)
    (h : step s = .next t) : stepBlock k blocks = blocks.set k t := by
  simp only [stepBlock, hk, h]

/-- A step of block number `k` puts its next state in its place, or leaves the list alone: there is no such block, or it
stops. -/
theorem stepBlock_cases (k : Nat) (blocks : List State) :
    (∃ s t, blocks[k]? = some s ∧ step s = .next t ∧ stepBlock k blocks = blocks.set k t) ∨
    ((∀ s t, blocks[k]? = some s → step s ≠ .next t) ∧ stepBlock k blocks = blocks) := by
  rcases hk : blocks[k]? with _ | s
  · exact .inr ⟨fun _ _ e => absurd e (by simp), by simp only [stepBlock, hk]⟩
  · rcases h : step s with t | f | f
    · exact .inl ⟨s, t, rfl, h, stepBlock_of_step hk h⟩
    all_goals exact .inr ⟨fun _ _ e => by rw [← Option.some.inj e, h]; simp, by simp only [stepBlock, hk, h]⟩

theorem stepResponse_of_step {s t : State} (h : step s = .next t) : stepResponse s = t.response.toList := by
  simp only [stepResponse, h]

end Sys2Proof.Machine
end

