-- ==== Sys2Proof/Laws/PerInstr.lean ====
section
/-! SUPPORT. Facts stated for every instruction, one lemma for each constructor. -/

namespace Sys2Proof.Laws

open Sys2Proof

/-! An instruction's encoding has as many bytes as its wire size (spec/30_encoding.md R46, R57). -/
namespace EncodedLength

def Statement (i : Instr) : Prop := (encode i).length = i.size.val

theorem endMarker : Statement .endMarker := rfl
theorem rgb (r g b : Byte) : Statement (.rgb r g b) := rfl
theorem rgba (r g b a : Byte) : Statement (.rgba r g b a) := rfl
theorem index (slot : Slot) : Statement (.index slot) := rfl
theorem diff (dr dg db : Byte) : Statement (.diff dr dg db) := rfl
theorem luma (dg drdg dbdg : Byte) : Statement (.luma dg drdg dbdg) := rfl
theorem run (n : Slot) : Statement (.run n) := rfl

end EncodedLength

end Sys2Proof.Laws
end

