-- ==== Sys2Proof/Laws/Source.lean ====
section
/-! SUPPORT. Everything a source read can answer, and the entries of a refilled window. -/

namespace Sys2Proof.Machine

open Sys2Proof

/-- Every answer of `SrcRead(n)` (spec/20_memory.md R28; spec/70_reset_and_hazards.md R109): the next n bytes, which are
gone from the source; or no byte handed over, the source's bytes still whole; or no answer at all. -/
theorem Source.read_cases (src : Source) (n : Nat) :
    (n ≤ src.bytes.length ∧ (src.answers = [] ∨ src.answers.head? = some .supply) ∧
      src.read n = .bytes (src.bytes.take n) ⟨src.bytes.drop n, src.answers.tail⟩) ∨
    (src.read n = .srcFail ⟨src.bytes, src.answers.tail⟩ ∧
      (src.answers.head? = some .fail ∨
        src.bytes.length < n ∧ (src.answers = [] ∨ src.answers.head? = some .supply))) ∨
    (src.read n = .waiting ⟨src.bytes, src.answers.tail⟩ ∧ src.answers.head? = some .wait) ∨
    (src.read n = .noAnswer ∧ src.answers.head? = some .never) := by
  obtain ⟨bytes, answers⟩ := src
  by_cases hn : n ≤ bytes.length
  · rcases answers with _ | ⟨a, as⟩
    · simp [Source.read, Source.supply, hn]
    · cases a <;> simp [Source.read, Source.supply, hn]
  · rcases answers with _ | ⟨a, as⟩
    · simp [Source.read, Source.supply, hn]; omega
    · cases a <;> simp [Source.read, Source.supply, hn]
      omega

/-- A successful read: as many bytes as asked for, in stream order, and the source without them. -/
theorem Source.read_bytes {src rest : Source} {n : Nat} {bs : List Byte} (h : src.read n = .bytes bs rest) :
    n ≤ src.bytes.length ∧ bs = src.bytes.take n ∧ bs.length = n ∧ rest.bytes = src.bytes.drop n ∧
      rest.answers = src.answers.tail := by
  rcases src.read_cases n with ⟨hn, -, e⟩ | ⟨e, -⟩ | ⟨e, -⟩ | ⟨e, -⟩ <;> rw [e] at h
  · obtain ⟨rfl, rfl⟩ := ReadResult.bytes.inj h
    exact ⟨hn, rfl, by simpa using hn, rfl, rfl⟩
  all_goals exact nomatch h

/-- A failed read hands nothing over; how many bytes it took is left to the caller. -/
theorem Source.read_srcFail {src rest : Source} {n : Nat} (h : src.read n = .srcFail rest) :
    rest.bytes = src.bytes ∧ rest.answers = src.answers.tail := by
  rcases src.read_cases n with ⟨-, -, e⟩ | ⟨e, -⟩ | ⟨e, -⟩ | ⟨e, -⟩ <;> rw [e] at h
  · exact nomatch h
  · obtain rfl := ReadResult.srcFail.inj h
    exact ⟨rfl, rfl⟩
  all_goals exact nomatch h

/-- A read with no answer yet leaves the bytes where they are. -/
theorem Source.read_waiting {src rest : Source} {n : Nat} (h : src.read n = .waiting rest) :
    rest.bytes = src.bytes ∧ rest.answers = src.answers.tail := by
  rcases src.read_cases n with ⟨-, -, e⟩ | ⟨e, -⟩ | ⟨e, -⟩ | ⟨e, -⟩ <;> rw [e] at h
  · exact nomatch h
  · exact nomatch h
  · obtain rfl := ReadResult.waiting.inj h
    exact ⟨rfl, rfl⟩
  · exact nomatch h

/-- A failed read takes at most the n bytes asked for, and no more than there were (spec/20_memory.md R29). -/
theorem takenByFailure_le (k n avail : Nat) : takenByFailure k n avail ≤ n ∧ takenByFailure k n avail ≤ avail := by
  have h : takenByFailure k n avail < min n avail + 1 := Nat.mod_lt _ (Nat.succ_pos _)
  omega

/-- Each entry of the refilled window. -/
theorem Window.refilled_get (w : Window) (n : Nat) (bs : List Byte) (i : Nat) (hi : i < 8) :
    (Window.refilled w n bs)[i] = Window.refilledEntry w n bs i := by
  have : i = 0 ∨ i = 1 ∨ i = 2 ∨ i = 3 ∨ i = 4 ∨ i = 5 ∨ i = 6 ∨ i = 7 := by omega
  rcases this with rfl | rfl | rfl | rfl | rfl | rfl | rfl | rfl <;> rfl

/-- The old bytes and the fresh ones, in order: the last 8 of the window followed by the bytes read. -/
theorem Window.refilled_toList (w : Window) (n : Nat) (bs : List Byte) (hn : n ≤ 8) (hb : bs.length = n) :
    (Window.refilled w n bs).toList = w.toList.drop n ++ bs := by
  apply List.ext_getElem
  · simp [hb]; omega
  · intro i h1 h2
    have hi : i < 8 := by simpa using h1
    rw [Vector.getElem_toList, Window.refilled_get w n bs i hi, Window.refilledEntry]
    split
    · rename_i h
      rw [List.getElem_append_left (by simp; omega)]
      simp [Nat.add_comm]
    · rename_i h
      rw [List.getElem_append_right (by simp; omega)]
      have hk : i + n - 8 < bs.length := by omega
      simp only [List.getD_eq_getElem _ _ hk, List.length_drop, Vector.length_toList]
      congr 1
      omega

end Sys2Proof.Machine
end

