-- ==== Sys2Proof/Laws/Step.lean ====
section
/-! SUPPORT. What a step can do, said once: `exec` by instruction, and `step` by the input it takes. -/

namespace Sys2Proof.Machine

open Sys2Proof

/-! ## exec -/

@[simp] theorem exec_endMarker (s : State) : exec .endMarker s = .next s.finish := rfl

@[simp] theorem exec_rgb (s : State) (r g b : Byte) :
    exec (.rgb r g b) s = .next (s.produce (rgbPixel s.prev r g b)) := rfl

@[simp] theorem exec_rgba (s : State) (r g b a : Byte) :
    exec (.rgba r g b a) s = .next (s.produce (rgbaPixel r g b a)) := rfl

@[simp] theorem exec_index (s : State) (i : Slot) : exec (.index i) s = .next (s.emit (s.cacheRead i)) := rfl

@[simp] theorem exec_diff (s : State) (dr dg db : Byte) :
    exec (.diff dr dg db) s = .next (s.produce (diffPixel s.prev dr dg db)) := rfl

@[simp] theorem exec_luma (s : State) (dg drdg dbdg : Byte) :
    exec (.luma dg drdg dbdg) s = .next (s.produce (lumaPixel s.prev dg drdg dbdg)) := rfl

@[simp] theorem exec_run (s : State) (n : Slot) :
    exec (.run n) s = .next ((s.setRun n).respond (.pixel s.prev)) := rfl

/-- Everything a meaning can do: it ends the stream, or it produces a pixel through the cache, or it emits a cached pixel,
or it begins a run. It never stops. -/
theorem exec_cases (i : Instr) (s : State) :
    (i = .endMarker ∧ exec i s = .next s.finish) ∨
    (i ≠ .endMarker ∧ ∃ p, exec i s = .next (s.produce p)) ∨
    (∃ j, i = .index j ∧ exec i s = .next (s.emit (s.cacheRead j))) ∨
    (∃ n, i = .run n ∧ exec i s = .next ((s.setRun n).respond (.pixel s.prev))) := by
  cases i with
  | endMarker => exact .inl ⟨rfl, rfl⟩
  | rgb r g b => exact .inr (.inl ⟨nofun, _, rfl⟩)
  | rgba r g b a => exact .inr (.inl ⟨nofun, _, rfl⟩)
  | index j => exact .inr (.inr (.inl ⟨j, rfl, rfl⟩))
  | diff dr dg db => exact .inr (.inl ⟨nofun, _, rfl⟩)
  | luma dg drdg dbdg => exact .inr (.inl ⟨nofun, _, rfl⟩)
  | run n => exact .inr (.inr (.inr ⟨n, rfl, rfl⟩))

/-! ## step, by the input taken -/

theorem step_nil {s : State} (h : s.inputs = []) : step s = .next s.silent := by
  simp [step, inputStep, h]

theorem step_reset {s : State} {rest : List Input} (h : s.inputs = .reset :: rest) :
    step s = .next (State.initialise .idle { s with inputs := rest }) := by
  simp [step, inputStep, h]

theorem step_start {s : State} {rest : List Input} (h : s.inputs = .start :: rest) :
    step s = .next (State.initialise .streaming { s with inputs := rest }) := by
  simp [step, inputStep, h]

theorem step_attach {s : State} {src : Source} {rest : List Input} (h : s.inputs = .attach src :: rest) :
    step s = .next (State.silent { s with inputs := rest, source := src }) := by
  simp [step, inputStep, h]

theorem step_pull {s : State} {rest : List Input} (h : s.inputs = .pull :: rest) : step s = pullStep rest s := by
  simp [step, inputStep, h]

/-- No continuation is due exactly when the flag is clear or the count is 0. -/
theorem runPending_eq_false {s : State} :
    s.runPending = false ↔ s.runActive = false ∨ s.runRemaining.toNat = 0 := by
  cases h : s.runActive <;> simp [State.runPending, h]

theorem pullStep_idle {s : State} (rest : List Input) (hp : s.phase = .idle) :
    pullStep rest s = .next (State.respond .notStarted { s with inputs := rest }) := by
  unfold pullStep
  split <;> simp_all

theorem pullStep_ended {s : State} (rest : List Input) (hp : s.phase = .ended) :
    pullStep rest s = .next (State.respond .endOfStream { s with inputs := rest }) := by
  unfold pullStep
  split <;> simp_all

theorem pullStep_faulted {s : State} (rest : List Input) (hp : s.phase = .faulted) :
    pullStep rest s = .next (State.respond (.fault s.cause) { s with inputs := rest }) := by
  unfold pullStep
  split <;> simp_all

theorem pullStep_continuation {s : State} (rest : List Input) (hp : s.phase = .streaming) (hr : s.runPending = true) :
    pullStep rest s = .next ((State.countRun { s with inputs := rest }).respond (.pixel s.prev)) := by
  unfold pullStep
  split <;> simp_all [continueRun]

theorem pullStep_window {s : State} {rest : List Input} (d : WindowStepDue s rest) : step s = windowStep rest s := by
  rw [step_pull d.pull, pullStep, d.streaming]
  simp [runPending_eq_false.mpr d.noRun]

/-- A window step by the source's answer. -/
theorem windowStep_cases (rest : List Input) (s : State) :
    (∃ bs src, s.source.read s.refill.val = .bytes bs src ∧
      windowStep rest s = State.dispatch (State.refillWindow bs src { s with inputs := rest })) ∨
    (∃ src, s.source.read s.refill.val = .srcFail src ∧
      windowStep rest s = .next (State.failRead src { s with inputs := rest })) ∨
    (∃ src, s.source.read s.refill.val = .waiting src ∧
      windowStep rest s = .next { s with source := src, response := none }) ∨
    (s.source.read s.refill.val = .noAnswer ∧ windowStep rest s = .fault .sourceNeverAnswers) := by
  cases h : s.source.read s.refill.val with
  | bytes bs src => exact .inl ⟨bs, src, rfl, by simp [windowStep, h]⟩
  | srcFail src => exact .inr (.inl ⟨src, rfl, by simp [windowStep, h]⟩)
  | waiting src => exact .inr (.inr (.inl ⟨src, rfl, by simp [windowStep, h]⟩))
  | noAnswer => exact .inr (.inr (.inr ⟨rfl, by simp [windowStep, h]⟩))

/-! ## Everything a step can do -/

/-- How `step s` came to answer `next t`: the input taken, what the source answered, and `t` in terms of the shared
operations. -/
inductive StepCase (s t : State) : Prop where
  | idle (hi : s.inputs = []) (e : t = s.silent)
  | reset (rest : List Input) (hi : s.inputs = .reset :: rest) (e : t = State.initialise .idle { s with inputs := rest })
  | start (rest : List Input) (hi : s.inputs = .start :: rest)
      (e : t = State.initialise .streaming { s with inputs := rest })
  | attach (src : Source) (rest : List Input) (hi : s.inputs = .attach src :: rest)
      (e : t = State.silent { s with inputs := rest, source := src })
  | notStarted (rest : List Input) (hi : s.inputs = .pull :: rest) (hp : s.phase = .idle)
      (e : t = State.respond .notStarted { s with inputs := rest })
  | afterEnd (rest : List Input) (hi : s.inputs = .pull :: rest) (hp : s.phase = .ended)
      (e : t = State.respond .endOfStream { s with inputs := rest })
  | afterFault (rest : List Input) (hi : s.inputs = .pull :: rest) (hp : s.phase = .faulted)
      (e : t = State.respond (.fault s.cause) { s with inputs := rest })
  | continuation (rest : List Input) (hi : s.inputs = .pull :: rest) (hp : s.phase = .streaming)
      (hr : s.runPending = true) (e : t = (State.countRun { s with inputs := rest }).respond (.pixel s.prev))
  | readFailed (rest : List Input) (src : Source) (d : WindowStepDue s rest)
      (hs : s.source.read s.refill.val = .srcFail src) (e : t = State.failRead src { s with inputs := rest })
  | readWaiting (rest : List Input) (src : Source) (d : WindowStepDue s rest)
      (hs : s.source.read s.refill.val = .waiting src) (e : t = { s with source := src, response := none })
  | undecodable (rest : List Input) (bs : List Byte) (src : Source) (r : Reject) (d : WindowStepDue s rest)
      (hs : s.source.read s.refill.val = .bytes bs src)
      (hw : decodeWindow (Window.refilled s.win s.refill.val bs) = .error r)
      (e : t = (State.refillWindow bs src { s with inputs := rest }).raiseFault .badChunk)
  | decoded (rest : List Input) (bs : List Byte) (src : Source) (i : Instr) (d : WindowStepDue s rest)
      (hs : s.source.read s.refill.val = .bytes bs src)
      (hw : decodeWindow (Window.refilled s.win s.refill.val bs) = .ok i)
      (e : exec i ((State.refillWindow bs src { s with inputs := rest }).setRefill i) = .next t)

/-- The inversion of `step`: the cases above are all there are. -/
theorem step_cases {s t : State} (h : step s = .next t) : StepCase s t := by
  match hi : s.inputs with
  | [] => rw [step_nil hi] at h; exact .idle hi (Host.Outcome.next.inj h).symm
  | .reset :: rest => rw [step_reset hi] at h; exact .reset rest hi (Host.Outcome.next.inj h).symm
  | .start :: rest => rw [step_start hi] at h; exact .start rest hi (Host.Outcome.next.inj h).symm
  | .attach src :: rest => rw [step_attach hi] at h; exact .attach src rest hi (Host.Outcome.next.inj h).symm
  | .pull :: rest =>
    match hp : s.phase with
    | .idle =>
      rw [step_pull hi, pullStep_idle rest hp] at h
      exact .notStarted rest hi hp (Host.Outcome.next.inj h).symm
    | .ended =>
      rw [step_pull hi, pullStep_ended rest hp] at h
      exact .afterEnd rest hi hp (Host.Outcome.next.inj h).symm
    | .faulted =>
      rw [step_pull hi, pullStep_faulted rest hp] at h
      exact .afterFault rest hi hp (Host.Outcome.next.inj h).symm
    | .streaming =>
      cases hr : s.runPending with
      | true =>
        rw [step_pull hi, pullStep_continuation rest hp hr] at h
        exact .continuation rest hi hp hr (Host.Outcome.next.inj h).symm
      | false =>
        have d : WindowStepDue s rest := ⟨hi, hp, runPending_eq_false.mp hr⟩
        rw [pullStep_window d] at h
        rcases windowStep_cases rest s with ⟨bs, src, hs, e⟩ | ⟨src, hs, e⟩ | ⟨src, hs, e⟩ | ⟨-, e⟩ <;> rw [e] at h
        · match hw : decodeWindow (Window.refilled s.win s.refill.val bs) with
          | .ok i => exact .decoded rest bs src i d hs hw (by simpa [State.dispatch, hw] using h)
          | .error r =>
            exact .undecodable rest bs src r d hs hw (by
              simp only [State.dispatch, State.refillWindow_win, hw] at h
              exact (Host.Outcome.next.inj h).symm)
        · exact .readFailed rest src d hs (Host.Outcome.next.inj h).symm
        · exact .readWaiting rest src d hs (Host.Outcome.next.inj h).symm
        · exact nomatch h

/-- The instruction a due window step decodes, when its read is answered. -/
theorem chunkAt_of_bytes {s : State} {rest : List Input} {bs : List Byte} {src : Source} (d : WindowStepDue s rest)
    (hs : s.source.read s.refill.val = .bytes bs src) :
    s.chunkAt = (decodeWindow (Window.refilled s.win s.refill.val bs)).toOption := by
  simp only [State.chunkAt, d.pull, d.streaming, runPending_eq_false.mpr d.noRun, hs]
  cases decodeWindow (Window.refilled s.win s.refill.val bs) <;> simp [Except.toOption]

/-- No instruction is decoded by a step that is no window step, or whose read is not answered with bytes. -/
theorem chunkAt_eq_none {s : State}
    (h : ∀ rest bs src, WindowStepDue s rest → s.source.read s.refill.val ≠ .bytes bs src) : s.chunkAt = none := by
  unfold State.chunkAt
  split
  · rename_i rest hi
    split
    · rename_i hc
      have d : WindowStepDue s rest := ⟨hi, hc.1, runPending_eq_false.mp hc.2⟩
      cases hs : s.source.read s.refill.val with
      | bytes bs src => exact absurd hs (h rest bs src d)
      | srcFail _ => rfl
      | waiting _ => rfl
      | noAnswer => rfl
    · rfl
  · rfl

end Sys2Proof.Machine
end

