-- ==== Sys2Proof/Laws/Runs.lean ====
section
/-! SUPPORT. Runs of many steps: one step off the front, and runs put end to end. -/

namespace Sys2Proof.Machine

open Sys2Proof

/-- A run with its first step taken off. -/
theorem run_of_step {s t : State} (k : Nat) (h : step s = .next t) :
    Host.Core.run Sys2Proof.core (k + 1) s = Host.Core.run Sys2Proof.core k t := by
  have hc : Sys2Proof.core.step s = .next t := h
  simp only [Host.Core.run, hc]

/-- A run that answers a next state took a first step. -/
theorem step_of_run {s t : State} {k : Nat} (h : Host.Core.run Sys2Proof.core (k + 1) s = .next t) :
    ∃ u : State, step s = .next u ∧ Host.Core.run Sys2Proof.core k u = .next t := by
  rcases hs : step s with u | r | r
  · exact ⟨u, rfl, (run_of_step k hs).symm.trans h⟩
  all_goals
    have hc : Sys2Proof.core.step s = _ := hs
    simp only [Host.Core.run, hc] at h
    exact nomatch h

theorem responsesIn_of_step {s t : State} (k : Nat) (h : step s = .next t) :
    responsesIn (k + 1) s = t.response.toList ++ responsesIn k t := by
  simp [responsesIn, h]

theorem chunksIn_of_step {s t : State} (k : Nat) (h : step s = .next t) :
    chunksIn (k + 1) s = s.chunkAt.toList ++ chunksIn k t := by
  simp [chunksIn, h]

/-- Two runs put end to end. -/
theorem run_add {s t : State} (a b : Nat) (h : Host.Core.run Sys2Proof.core a s = .next t) :
    Host.Core.run Sys2Proof.core (a + b) s = Host.Core.run Sys2Proof.core b t := by
  induction a generalizing s with
  | zero => cases h; rw [Nat.zero_add]
  | succ a ih =>
    obtain ⟨u, hs, hu⟩ := step_of_run h
    rw [Nat.add_right_comm, run_of_step _ hs]
    exact ih hu

/-- The responses of two runs put end to end. -/
theorem responsesIn_add {s t : State} (a b : Nat) (h : Host.Core.run Sys2Proof.core a s = .next t) :
    responsesIn (a + b) s = responsesIn a s ++ responsesIn b t := by
  induction a generalizing s with
  | zero => cases h; simp [responsesIn]
  | succ a ih =>
    obtain ⟨u, hs, hu⟩ := step_of_run h
    rw [Nat.add_right_comm, responsesIn_of_step _ hs, responsesIn_of_step _ hs, ih hu, List.append_assoc]

end Sys2Proof.Machine
end

