-- ==== Sys2Proof/Tests/Slice0.lean ====
section
/-! SUPPORT. The model's own tests: ill-formed terms refused, words written out from spec/30_encoding.md decoded, one step of
each instruction against the vectors of spec/95_test_vectors.md, and a witness for the hypotheses of each statement. -/

namespace Sys2Proof.Tests

open Sys2Proof Sys2Proof.Machine

/-! ## Well-formedness: an ill-formed term for each check -/

theorem test_wf_diff_red : (Instr.diff 2 0 0).wellFormed = false := by decide
theorem test_wf_diff_green : (Instr.diff 0 0xFD 0).wellFormed = false := by decide
theorem test_wf_diff_blue : (Instr.diff 0 0 2).wellFormed = false := by decide
theorem test_wf_luma_green_high : (Instr.luma 32 0 0).wellFormed = false := by decide
theorem test_wf_luma_green_low : (Instr.luma 0xDF 0 0).wellFormed = false := by decide
theorem test_wf_luma_red : (Instr.luma 0 8 0).wellFormed = false := by decide
theorem test_wf_luma_blue : (Instr.luma 0 0 0xF7).wellFormed = false := by decide
theorem test_wf_run : (Instr.run 62).wellFormed = false := by decide
theorem test_wf_edges : (Instr.diff 0xFE 1 0).wellFormed = true ∧ (Instr.luma 0xE0 0xF8 7).wellFormed = true ∧
    (Instr.run 61).wellFormed = true := by decide

/-! ## Decoding words written out bit by bit (R51 to R57) -/

/-- R57. -/
theorem test_decode_end : decode [0x00, 0x00, 0x00, 0x00, 0x00, 0x00, 0x00, 0x01] = .ok (.endMarker, []) := by rfl
/-- R51: `1111 1110`, r, g, b. -/
theorem test_decode_rgb :
    decode [0b11111110, 0x0A, 0x14, 0x1E, 9, 9, 9, 9] = .ok (.rgb 0x0A 0x14 0x1E, [9, 9, 9, 9]) := by rfl
/-- R52: `1111 1111`, r, g, b, a. -/
theorem test_decode_rgba : decode [0b11111111, 1, 2, 3, 4, 9, 9, 9] = .ok (.rgba 1 2 3 4, [9, 9, 9]) := by rfl
/-- R53: `00 101000` is slot 40. -/
theorem test_decode_index : decode [0b00_101000, 9, 9, 9, 9, 9, 9, 9] = .ok (.index 40, [9, 9, 9, 9, 9, 9, 9]) := by rfl
/-- R54: `01 00 01 11` is (-2, -1, +1), red in the high bits. -/
theorem test_decode_diff :
    decode [0b01_00_01_11, 9, 9, 9, 9, 9, 9, 9] = .ok (.diff 0xFE 0xFF 1, [9, 9, 9, 9, 9, 9, 9]) := by rfl
/-- R55: `10 100101`, `0011 1100` is dg 5, drdg -5, dbdg 4 (LUMA-7 of 95_test_vectors.md). -/
theorem test_decode_luma :
    decode [0b10_100101, 0b0011_1100, 9, 9, 9, 9, 9, 9] = .ok (.luma 5 0xFB 4, [9, 9, 9, 9, 9, 9]) := by rfl
/-- R56: `11 111101`, the longest run; `11 111110` is ColorRGB. -/
theorem test_decode_run : decode [0b11_111101, 9, 9, 9, 9, 9, 9, 9] = .ok (.run 61, [9, 9, 9, 9, 9, 9, 9]) := by rfl
/-- R57: a window differing from the end marker only in its last byte is Index 0. -/
theorem test_decode_near_end : decode [0, 0, 0, 0, 0, 0, 0, 2] = .ok (.index 0, [0, 0, 0, 0, 0, 0, 2]) := by rfl
/-- spec/70_reset_and_hazards.md R103: no chunk is decoded from less than a full window. -/
theorem test_decode_short : decode [0xFE, 0x0A, 0x14, 0x1E, 0, 0, 0] = .error .shortWindow := by rfl
/-- The end marker as a table word: its eighth byte in bits 63..56. -/
theorem test_table_end : decodeTableWord 64 0x0100000000000000 = some .endMarker := by decide
theorem test_table_rgb : decodeTableWord 32 0x1E140AFE = some (.rgb 10 20 30) := by decide
theorem test_table_rgba_short : decodeTableWord 8 0xFF = some (.rgba 0 0 0 0) := by decide

/-! ## One step of each instruction (95_test_vectors.md, L2) -/

/-- A streaming session with the given previous pixel, before its first window step, one `PULL` pending. -/
def session (prev : Pixel) (bytes : List Byte) (rest : List Input) : State :=
  { State.reset with phase := .streaming, prev := prev, source := ⟨bytes, []⟩, inputs := .pull :: rest }

/-- The next state, or the same one where the step stops. -/
def after (s : State) : State :=
  match step s with
  | .next t => t
  | .fault _ => s
  | .refused _ => s

/-- RGB-1. -/
theorem test_step_rgb :
    let t := after (session .blackOpaque [0xFE, 0x0A, 0x14, 0x1E, 0, 0, 0, 0] [])
    t.response = some (.pixel ⟨10, 20, 30, 255⟩) ∧ t.cache[9] = ⟨10, 20, 30, 255⟩ ∧ t.status = 0x00002001 ∧ t.pos = 8 := by
  decide
/-- RGB-2: alpha comes from prev. -/
theorem test_step_rgb_alpha :
    let t := after (session ⟨1, 2, 3, 4⟩ [0xFE, 0xC8, 0x64, 0x32, 0, 0, 0, 0] [])
    t.response = some (.pixel ⟨200, 100, 50, 4⟩) ∧ t.cache[22] = ⟨200, 100, 50, 4⟩ := by decide
/-- RGBA-1. -/
theorem test_step_rgba :
    let t := after (session .blackOpaque [0xFF, 1, 2, 3, 4, 0, 0, 0] [])
    t.prev = ⟨1, 2, 3, 4⟩ ∧ t.cache[14] = ⟨1, 2, 3, 4⟩ ∧ t.status = 0x00002801 := by decide
/-- IDX-3: slot 53 was never written. -/
theorem test_step_index :
    let t := after (session .blackOpaque [0x35, 0, 0, 0, 0, 0, 0, 0] [])
    t.response = some (.pixel .zero) ∧ t.prev = .zero ∧ t.cache = State.reset.cache ∧ t.status = 0x00000801 := by decide
/-- DIFF-4: every lane wraps, alpha kept. -/
theorem test_step_diff_wraps :
    let t := after (session ⟨255, 255, 255, 7⟩ [0x7F, 0, 0, 0, 0, 0, 0, 0] [])
    t.response = some (.pixel ⟨0, 0, 0, 7⟩) ∧ t.cache[13] = ⟨0, 0, 0, 7⟩ := by decide
/-- DIFF-5: the three fields are told apart. -/
theorem test_step_diff :
    (after (session ⟨10, 20, 30, 255⟩ [0x5B, 0, 0, 0, 0, 0, 0, 0] [])).prev = ⟨9, 20, 31, 255⟩ := by decide
/-- LUMA-5: blue uses its own field. -/
theorem test_step_luma_blue :
    let t := after (session ⟨10, 20, 30, 255⟩ [0xA0, 0x8F, 0, 0, 0, 0, 0, 0] [])
    t.prev = ⟨10, 20, 37, 255⟩ ∧ t.cache[58] = ⟨10, 20, 37, 255⟩ ∧ t.status = 0x00001001 := by decide
/-- LUMA-1: the minimum, from black. -/
theorem test_step_luma_minimum :
    (after (session .blackOpaque [0x80, 0x00, 0, 0, 0, 0, 0, 0] [])).prev = ⟨216, 224, 216, 255⟩ := by decide
/-- RUN-4 and RUN-2: the cache is not written; `STATUS` holds the count. -/
theorem test_step_run :
    let t := after (session .blackOpaque [0xC3, 0, 0, 0, 0, 0, 0, 0] [])
    t.response = some (.pixel .blackOpaque) ∧ t.cache = State.reset.cache ∧ t.status = 0x00000871 := by decide
/-- RUN-5: the last continuation step clears the flag and reads nothing. -/
theorem test_step_continuation :
    let s := session ⟨10, 20, 30, 255⟩ [5, 6, 7] []
    let t := after { s with runActive := true, runRemaining := 1, refill := 1 }
    t.response = some (.pixel ⟨10, 20, 30, 255⟩) ∧ t.status = 0x00000801 ∧ t.source = s.source ∧ t.pos = s.pos := by decide
/-- END-1. -/
theorem test_step_end :
    let t := after (session .blackOpaque [0, 0, 0, 0, 0, 0, 0, 1] [])
    t.response = some .endOfStream ∧ t.status = 0x00004002 ∧ t.pos = 8 := by decide
/-- IO-1: an empty source. -/
theorem test_step_source_fault :
    let t := after (session .blackOpaque [] [])
    t.response = some (.fault .sourceIo) ∧ t.status = 0x0000400B := by decide
/-- IO-2: a truncated stream faults although its chunk is complete. -/
theorem test_step_truncated :
    (after (session .blackOpaque [0xFE, 0x0A, 0x14, 0x1E, 0, 0, 0] [])).response = some (.fault .sourceIo) := by decide
/-- CMD-1 and CMD-2. -/
theorem test_commands :
    (after { State.reset with inputs := [.pull] }).response = some .notStarted ∧
    (after { State.reset with inputs := [.start] }).status = 0x00004001 := by decide
/-- The hash column of 95_test_vectors.md. -/
theorem test_hash : pixelHash ⟨255, 255, 255, 255⟩ = 38 ∧ pixelHash ⟨128, 128, 128, 255⟩ = 53 ∧
    pixelHash ⟨255, 0, 0, 255⟩ = 50 ∧ pixelHash ⟨0, 255, 0, 255⟩ = 48 ∧ pixelHash ⟨0, 0, 255, 255⟩ = 46 ∧
    pixelHash ⟨11, 21, 31, 255⟩ = 24 := by decide
/-- A placed word is fetched and run as the first instruction after reset. -/
theorem test_fetch_word : (after (State.reset.withFetchWord 8 0xC3)).status = 0x00000871 := by decide
/-- The notation of R61: `RUN 4` is `C3`, and `DIFF 2, 0, 0` spells no chunk. -/
theorem test_assemble : assemble (.run 4) = some [0xC3] ∧ assemble (.luma (-3) (-3) 0) = some [0x9D, 0x58] ∧
    assemble (.diff 2 0 0) = none := by decide
/-- The header of L1-1 is accepted; a wrong magic is not. -/
theorem test_header :
    bootInputs [0x71, 0x6F, 0x69, 0x66, 0, 0, 0, 4, 0, 0, 0, 2, 3, 0, 0xC0] = [.attach ⟨[0xC0], []⟩, .start] ∧
    bootInputs [0x71, 0x6F, 0x69, 0x67, 0, 0, 0, 4, 0, 0, 0, 2, 3, 0, 0xC0] = [] := by decide
/-- resp_pixel of R95: r in the top byte. -/
theorem test_port_pixel : (Response.pixel ⟨1, 2, 3, 4⟩).pixelWord = some 0x01020304 ∧
    (Response.fault .sourceIo).causeCode = 2 ∧ commandOfPins true true true = some .reset := by decide

/-! ## Witnesses: a concrete state and operands that meet each statement's hypotheses -/

/-- A session whose source holds exactly the window's bytes is ready to decode them. -/
theorem session_ready (p : Pixel) (b0 b1 b2 b3 b4 b5 b6 b7 : Byte) (rest : List Input) :
    WindowReady (session p [b0, b1, b2, b3, b4, b5, b6, b7] rest) rest #v[b0, b1, b2, b3, b4, b5, b6, b7] ⟨[], []⟩ :=
  ⟨⟨rfl, rfl, .inl rfl⟩, _, rfl, rfl⟩

theorem session_due (p : Pixel) (bytes : List Byte) (rest : List Input) :
    WindowStepDue (session p bytes rest) rest := ⟨rfl, rfl, .inl rfl⟩

theorem witness_commands : ({ State.reset with inputs := [.reset] } : State).inputs = .reset :: [] ∧
    ({ State.reset with inputs := [.start, .pull] } : State).inputs = .start :: [.pull] ∧
    ({ State.reset with inputs := [.attach ⟨[1], []⟩] } : State).inputs = .attach ⟨[1], []⟩ :: [] ∧
    State.reset.inputs = [] := by decide
theorem witness_pull_in_idle : ({ State.reset with inputs := [.pull] } : State).inputs = .pull :: [] ∧
    ({ State.reset with inputs := [.pull] } : State).phase = .idle := by decide
theorem witness_terminal_pulls : ({ State.reset with inputs := [.pull], phase := .ended } : State).phase = .ended ∧
    ({ State.reset with inputs := [.pull], phase := .faulted, cause := .sourceIo } : State).phase = .faulted := by decide
/-- A `RESET` leaves a terminal phase. -/
theorem witness_terminal_left : ∃ s t : State, (s.phase = .ended ∨ s.phase = .faulted) ∧ step s = .next t ∧
    t.phase ≠ s.phase := ⟨{ State.reset with inputs := [.reset], phase := .ended }, _, .inl rfl, rfl, by decide⟩
/-- Each of the four phase transitions is made by some step. -/
theorem witness_phase_transitions :
    (∃ s t : State, step s = .next t ∧ s.inputs.head? = some .start ∧ t.phase ≠ s.phase) ∧
    (∃ s t : State, step s = .next t ∧ s.inputs.head? = some .reset ∧ t.phase ≠ s.phase) ∧
    (∃ s t : State, step s = .next t ∧ t.phase ≠ s.phase ∧ t.phase = .ended) ∧
    (∃ s t : State, step s = .next t ∧ t.phase ≠ s.phase ∧ t.phase = .faulted) ∧
    (∃ s t : State, step s = .next t ∧ s.chunkAt = some .endMarker) ∧
    (∃ s t : State, step s = .next t ∧ s.phase = .streaming ∧ t.response = some (.fault .sourceIo)) :=
  ⟨⟨{ State.reset with inputs := [.start] }, _, rfl, rfl, by decide⟩,
   ⟨{ State.reset with inputs := [.reset], phase := .streaming }, _, rfl, rfl, by decide⟩,
   ⟨session .zero [0, 0, 0, 0, 0, 0, 0, 1] [], _, rfl, by decide, rfl⟩,
   ⟨session .zero [] [], _, rfl, by decide, rfl⟩,
   ⟨session .zero [0, 0, 0, 0, 0, 0, 0, 1] [], _, rfl, rfl⟩,
   ⟨session .zero [] [], _, rfl, rfl, rfl⟩⟩
theorem witness_cause_written :
    (∃ s t : State, step s = .next t ∧ t.cause ≠ s.cause ∧ t.phase = .faulted) ∧
    (∃ s t : State, step s = .next t ∧ t.cause ≠ s.cause ∧ s.initialises) :=
  ⟨⟨session .zero [] [], _, rfl, by decide, rfl⟩,
   ⟨{ State.reset with inputs := [.start], phase := .faulted, cause := .sourceIo }, _, rfl, by decide, .inr rfl⟩⟩
theorem witness_status_after_reset : ∃ s t : State, s.inputs.head? = some .reset ∧ step s = .next t :=
  ⟨{ State.reset with inputs := [.reset], runActive := true }, _, rfl, rfl⟩
theorem witness_status_after_start : ∃ s t : State, s.inputs.head? = some .start ∧ step s = .next t :=
  ⟨{ State.reset with inputs := [.start], runActive := true }, _, rfl, rfl⟩
theorem witness_level_output_cleared : ∃ s t : State, step s = .next t ∧ s.ended = true ∧ t.ended = false :=
  ⟨{ State.reset with inputs := [.reset], phase := .ended }, _, rfl, rfl, rfl⟩
/-- The invariant holds in a state that is about to decode. -/
theorem witness_invariant_kept : ∃ s t : State, s.Inv ∧ step s = .next t :=
  ⟨session .blackOpaque [0xFE, 1, 2, 3, 0, 0, 0, 0] [], _, ⟨by decide, by decide, by decide, by decide⟩, rfl⟩
/-- A window for each clause of the operand assembly, at both ends of its range of tags; none is the end marker. -/
theorem witness_operand_assembly :
    ∀ t ∈ ([0x00, 0x3F, 0x40, 0x7F, 0x80, 0xBF, 0xC0, 0xFD, 0xFE, 0xFF] : List Byte),
      ¬ IsEndMarker #v[t, 0x8F, 1, 2, 3, 4, 5, 6] := by
  unfold IsEndMarker
  decide
theorem witness_index_from_tag : ¬ IsEndMarker #v[0x3F, 0, 0, 0, 0, 0, 0, 1] ∧
    (#v[0x3F, 0, 0, 0, 0, 0, 0, 1] : Window)[0].toNat < 64 := by
  unfold IsEndMarker
  decide
theorem witness_tag_and_four_bytes : ∃ (v w : Window) (i j : Instr), ¬ IsEndMarker v ∧ ¬ IsEndMarker w ∧ v[0] = w[0] ∧
    decodeWindow v = .ok i ∧ decodeWindow w = .ok j ∧ v[1] = w[1] ∧ v[2] = w[2] ∧ v[3] = w[3] ∧ v[4] = w[4] ∧ v ≠ w :=
  ⟨#v[0xFF, 1, 2, 3, 4, 5, 6, 7], #v[0xFF, 1, 2, 3, 4, 0, 0, 0], _, _, by unfold IsEndMarker; decide,
   by unfold IsEndMarker; decide, rfl, rfl, rfl, rfl, rfl, rfl, rfl, by decide⟩
/-- The one way BAD_CHUNK stays in the state: it was there. -/
theorem witness_bad_chunk_held : ∃ s t : State, step s = .next t ∧ t.cause = .badChunk :=
  ⟨{ State.reset with phase := .faulted, cause := .badChunk, inputs := [.pull] }, _, rfl, rfl⟩
theorem witness_decode_of_encode : (Instr.index 0).wellFormed = true ∧
    8 ≤ (encode (.index 0) ++ [0, 0, 0, 0, 0, 0, 2]).length ∧
    (encode (.index 0) ++ [0, 0, 0, 0, 0, 0, 2]).take 8 ≠ encode .endMarker ∧
    8 ≤ (encode .endMarker ++ []).length := by decide
theorem witness_encode_of_decode : decode [0x40, 1, 2, 3, 4, 5, 6, 7] = .ok (.diff 0xFE 0xFE 0xFE, [1, 2, 3, 4, 5, 6, 7]) :=
  rfl
theorem witness_table_word : (Instr.luma 0xE0 7 0xF8).wellFormed = true ∧ decodeTableWord 16 0xF080 = some (.luma 0xE0 7 0xF8) := by
  decide
theorem witness_assembler : (Instr.run 61).wellFormed = true ∧ (Instr.diff 1 0xFE 0).wellFormed = true ∧
    decodeWindow #v[0xFD, 0, 0, 0, 0, 0, 0, 0] = .ok (.run 61) := ⟨by decide, by decide, rfl⟩
theorem witness_step_runs_decoded :
    WindowReady (session .zero [0xC1, 0, 0, 0, 0, 0, 0, 0] []) [] #v[0xC1, 0, 0, 0, 0, 0, 0, 0] ⟨[], []⟩ ∧
    decodeWindow #v[0xC1, 0, 0, 0, 0, 0, 0, 0] = .ok (.run 1) := ⟨session_ready _ _ _ _ _ _ _ _ _ _, rfl⟩
theorem witness_placed_word : decodeTableWord 8 0x6A = some (.diff 0 0 0) := by decide
/-- The three clauses of the refill: bytes enough, one byte short, and a source that fails. -/
theorem witness_refill_shifts :
    (let s := session .zero [1, 2, 3, 4, 5, 6, 7, 8] []
     WindowStepDue s [] ∧ s.source.SuppliesNext ∧ s.refill.val ≤ s.source.bytes.length) ∧
    (let s := session .zero [1, 2, 3, 4, 5, 6, 7] []
     WindowStepDue s [] ∧ s.source.SuppliesNext ∧ s.source.bytes.length < s.refill.val) ∧
    (let s := { session .zero [1, 2, 3, 4, 5, 6, 7, 8] [] with source := ⟨[1, 2, 3, 4, 5, 6, 7, 8], [.fail]⟩ }
     WindowStepDue s [] ∧ s.source.answers.head? = some .fail) :=
  ⟨⟨session_due _ _ _, .inl rfl, by decide⟩, ⟨session_due _ _ _, .inl rfl, by decide⟩,
   ⟨⟨rfl, rfl, .inl rfl⟩, rfl⟩⟩
theorem witness_end_marker_step :
    (WindowReady (session .zero [0, 0, 0, 0, 0, 0, 0, 1] []) [] #v[0, 0, 0, 0, 0, 0, 0, 1] ⟨[], []⟩ ∧
      IsEndMarker #v[0, 0, 0, 0, 0, 0, 0, 1]) ∧
    (WindowReady (session .zero [0, 0, 0, 0, 0, 0, 0, 2] []) [] #v[0, 0, 0, 0, 0, 0, 0, 2] ⟨[], []⟩ ∧
      ¬ IsEndMarker #v[0, 0, 0, 0, 0, 0, 0, 2]) ∧
    ({ session .zero [] [] with runActive := true, runRemaining := 1 } : State).runPending = true :=
  ⟨⟨session_ready _ _ _ _ _ _ _ _ _ _, rfl⟩,
   ⟨session_ready _ _ _ _ _ _ _ _ _ _, by unfold IsEndMarker; decide⟩, by decide⟩
theorem witness_rgb_step : ∃ s rest w src, WindowReady s rest w src ∧ w[0].toNat = 0xFE :=
  ⟨_, _, _, _, session_ready .zero 0xFE 1 2 3 4 5 6 7 [], rfl⟩
theorem witness_rgba_step : ∃ s rest w src, WindowReady s rest w src ∧ w[0].toNat = 0xFF :=
  ⟨_, _, _, _, session_ready .zero 0xFF 1 2 3 4 5 6 7 [], rfl⟩
theorem witness_index_step : ∃ s rest w src, WindowReady s rest w src ∧ ¬ IsEndMarker w ∧ w[0].toNat < 64 :=
  ⟨_, _, _, _, session_ready .zero 0x3F 1 2 3 4 5 6 7 [], by unfold IsEndMarker; decide, by decide⟩
theorem witness_diff_step : ∃ s rest w src, WindowReady s rest w src ∧ 0x40 ≤ w[0].toNat ∧ w[0].toNat ≤ 0x7F :=
  ⟨_, _, _, _, session_ready .zero 0x7F 1 2 3 4 5 6 7 [], by decide, by decide⟩
theorem witness_luma_step : ∃ s rest w src, WindowReady s rest w src ∧ 0x80 ≤ w[0].toNat ∧ w[0].toNat ≤ 0xBF :=
  ⟨_, _, _, _, session_ready .zero 0xBF 1 2 3 4 5 6 7 [], by decide, by decide⟩
theorem witness_run_step : ∃ s rest w src, WindowReady s rest w src ∧ 0xC0 ≤ w[0].toNat ∧ w[0].toNat ≤ 0xFD :=
  ⟨_, _, _, _, session_ready .zero 0xFD 1 2 3 4 5 6 7 [], by decide, by decide⟩
theorem witness_run_continuation : ∃ (s : State) (rest : List Input), s.inputs = .pull :: rest ∧ s.phase = .streaming ∧
    s.runActive = true ∧ 0 < s.runRemaining.toNat :=
  ⟨{ session .zero [] [] with runActive := true, runRemaining := 61 }, [], rfl, rfl, rfl, by decide⟩
/-- The other clause: a window step whose flag was left set with count 0, and whose chunk is no Run. -/
theorem witness_run_flag_left_set : ∃ (s : State) (w : Window) (src : Source), s.runActive = true ∧
    WindowReady s [] w src ∧ ∀ n, decodeWindow w ≠ .ok (.run n) :=
  ⟨{ session .zero [0x28, 1, 2, 3, 4, 5, 6, 7] [] with runActive := true }, #v[0x28, 1, 2, 3, 4, 5, 6, 7], ⟨[], []⟩, rfl,
   ⟨⟨rfl, rfl, .inr rfl⟩, [0x28, 1, 2, 3, 4, 5, 6, 7], rfl, rfl⟩, fun n h => by cases h⟩
theorem witness_whole_run : ∃ (s : State) (n : Nat) (rest : List Input) (w : Window) (src : Source),
    WindowReady s (List.replicate n .pull ++ rest) w src ∧ 0xC0 ≤ w[0].toNat ∧ w[0].toNat ≤ 0xFD ∧ n = w[0].toNat % 64 :=
  ⟨_, 2, [], _, _, session_ready .zero 0xC2 1 2 3 4 5 6 7 _, by decide, by decide, by decide⟩
theorem witness_one_response : ∃ (s t : State) (rest : List Input), s.inputs = .pull :: rest ∧ step s = .next t :=
  ⟨session .zero [0xC0, 0, 0, 0, 0, 0, 0, 0] [], _, [], rfl, rfl⟩
theorem witness_fault_raised : ∃ (s t : State) (src : Source), s.phase = .streaming ∧ step s = .next t ∧ t.phase = .faulted ∧
    WindowStepDue s [] ∧ s.source.read s.refill.val = .srcFail src :=
  ⟨session .zero [1] [], _, _, rfl, rfl, rfl, session_due _ _ _, rfl⟩
theorem witness_pull_in_faulted : ∃ (s t : State), s.phase = .faulted ∧ s.inputs = .pull :: [] ∧ step s = .next t :=
  ⟨{ State.reset with phase := .faulted, cause := .sourceIo, inputs := [.pull] }, _, rfl, rfl, rfl⟩
theorem witness_unanswered_read :
    (let s := { session .zero [] [] with source := ⟨[], [.wait]⟩ }
     WindowStepDue s [] ∧ s.source.answers.head? = some .wait) ∧
    (let s := { session .zero [] [] with source := ⟨[], [.never]⟩ }
     WindowStepDue s [] ∧ s.source.answers.head? = some .never) :=
  ⟨⟨⟨rfl, rfl, .inl rfl⟩, rfl⟩, ⟨⟨rfl, rfl, .inl rfl⟩, rfl⟩⟩
theorem witness_sources_answer :
    ({ session .zero [1] [.attach ⟨[2], [.wait]⟩, .start] with source := ⟨[1], [.wait, .fail]⟩ } : State).sourcesAnswer = true := by
  decide
theorem witness_source_read : ∃ s t : State, step s = .next t ∧ (∀ src, s.inputs.head? ≠ some (.attach src)) ∧
    ¬ s.initialises ∧ t.source.bytes ≠ s.source.bytes :=
  ⟨session .zero [0xC0, 0, 0, 0, 0, 0, 0, 0] [], _, rfl, by simp [session], by simp [session, State.initialises], by decide⟩
theorem witness_unread_bytes : ∃ (s : State) (xs ys zs : List Byte) (answers : List Answer) (t : State),
    xs.length = s.refill.val ∧ ys ≠ zs ∧ answers = [.supply, .fail] ∧
    step { s with source := ⟨xs ++ ys, answers⟩ } = .next t :=
  ⟨session .zero [] [], [0xC0, 0, 0, 0, 0, 0, 0, 0], [1], [2], _, _, rfl, by decide, rfl, rfl⟩
/-- The steps that take no byte: a `START` in STREAMING with no run pending is no window step. -/
theorem witness_no_window_step : ∃ s t : State, step s = .next t ∧ s.phase = .streaming ∧ s.runPending = false ∧
    s.source.bytes ≠ [] ∧ ∀ rest, ¬ WindowStepDue s rest :=
  ⟨{ session .zero [1, 2, 3] [] with inputs := [.start] }, _, rfl, rfl, rfl, by decide, fun _ d => nomatch d.pull⟩
theorem witness_cache_written : ∃ s t : State, step s = .next t ∧ t.cache[9] ≠ s.cache[9] ∧
    s.chunkAt = some (.rgb 10 20 30) :=
  ⟨session .blackOpaque [0xFE, 10, 20, 30, 0, 0, 0, 0] [], _, rfl, by decide, by decide⟩
theorem witness_prev_written : ∃ s t : State, step s = .next t ∧ ¬ s.initialises ∧ t.prev.a ≠ s.prev.a ∧
    s.chunkAt = some (.rgba 1 2 3 4) :=
  ⟨session .blackOpaque [0xFF, 1, 2, 3, 4, 0, 0, 0] [], _, rfl, by simp [session, State.initialises], by decide, by decide⟩
theorem witness_run_flag :
    (∃ s t : State, s.inputs = .pull :: [] ∧ s.phase = .streaming ∧ step s = .next t ∧ t.inputs = [] ∧
      s.chunkAt = some (.run 5)) ∧
    (∃ s t : State, step s = .next t ∧ s.initialises) ∧
    (∃ s t : State, step s = .next t ∧ ¬ s.initialises ∧ s.inputs.head? ≠ some .pull) ∧
    (∃ s t : State, step s = .next t ∧ ¬ s.initialises ∧ s.phase = .streaming ∧ s.runActive = true ∧
      s.inputs.head? = some .pull ∧ t.inputs = s.inputs) :=
  ⟨⟨session .zero [0xC5, 0, 0, 0, 0, 0, 0, 0] [], _, rfl, rfl, rfl, rfl, by decide⟩,
   ⟨{ State.reset with inputs := [.reset] }, _, rfl, .inl rfl⟩,
   ⟨State.reset, _, rfl, by simp [State.initialises, State.reset], by decide⟩,
   ⟨{ session .zero [] [] with source := ⟨[], [.wait]⟩, runActive := true }, _, rfl,
    by simp [session, State.initialises], rfl, rfl, rfl, rfl⟩⟩
/-- A session at its start, one `PULL` pending, on a stream that holds one chunk and the end marker. -/
theorem witness_session_start : ∃ (s t : State), SessionInitial .streaming s ∧ s.pos = 0 ∧
    s.inputs = List.replicate 1 .pull ∧ s.source.answers = [] ∧ Host.Core.run Sys2Proof.core 1 s = .next t ∧
    t.phase ≠ .faulted ∧ t.phase = .streaming ∧ chunksIn 1 s ≠ [] :=
  ⟨session .blackOpaque [0xC0, 0, 0, 0, 0, 0, 0, 0, 1] [], _,
   ⟨rfl, rfl, rfl, by decide, rfl, rfl, by decide, rfl⟩, rfl, rfl, rfl, rfl, by decide, by decide, by decide⟩
theorem witness_finite_stream : ∃ s : State, SessionInitial .streaming s ∧ s.source.answers = [] ∧
    s.inputs = List.replicate (62 * s.source.bytes.length + 1) .pull :=
  ⟨session .blackOpaque [] [], ⟨rfl, rfl, rfl, by decide, rfl, rfl, by decide, rfl⟩, rfl, rfl⟩
theorem witness_stream_decodes : ∃ (s : State) (cs : List Instr) (tail : List Byte) (rest : List Input),
    (∀ i ∈ cs, i.wellFormed = true ∧ i ≠ .endMarker) ∧ noAlias (encode .endMarker ++ tail) cs = true ∧
    s.source = ⟨encodeAll cs ++ encode .endMarker ++ tail, []⟩ ∧
    s.inputs = .start :: (List.replicate ((Picture.blank.drawAll cs).out.length + 1) .pull ++ rest) ∧
    (Picture.blank.drawAll cs).out = [⟨1, 2, 3, 255⟩, ⟨1, 2, 3, 255⟩, ⟨1, 2, 3, 255⟩, ⟨1, 2, 3, 255⟩] :=
  ⟨{ State.reset with
      source := ⟨[0xFE, 1, 2, 3, 0xC1, 0x17, 0, 0, 0, 0, 0, 0, 0, 1, 9], []⟩
      inputs := [.start, .pull, .pull, .pull, .pull, .pull] },
   [.rgb 1 2 3, .run 1, .index 23], [9], [], by decide, by decide, rfl, rfl, by decide⟩
/-- Two blocks on two streams, their steps interleaved, the second one the block in question: an Index of slot 5, never
written, and the marker. -/
theorem witness_blocks : ∃ (blocks : List State) (sched : List Nat) (s t : State) (cs : List Instr),
    blocks[1]? = some s ∧ blocks[0]? ≠ some s ∧ (∀ i ∈ cs, i.wellFormed = true ∧ i ≠ .endMarker) ∧
    noAlias (encode .endMarker ++ []) cs = true ∧ s.source = ⟨encodeAll cs ++ encode .endMarker ++ [], []⟩ ∧
    s.inputs = .start :: (List.replicate ((Picture.blank.drawAll cs).out.length + 1) .pull ++ []) ∧
    sched.count 1 = (Picture.blank.drawAll cs).out.length + 2 ∧
    Host.Core.run Sys2Proof.core (sched.count 1) s = .next t :=
  ⟨[session .zero [0xFE, 1, 2, 3, 0, 0, 0, 0, 0, 0, 0, 1] [.pull],
    { State.reset with source := ⟨[0x05, 0, 0, 0, 0, 0, 0, 0, 1], []⟩, inputs := [.start, .pull, .pull] }],
   [1, 0, 1, 0, 1], _, _, [.index 5], rfl, by decide, by decide, by decide, rfl, rfl, by decide, rfl⟩
theorem witness_header : ∃ hd : List Byte, hd.length = 14 ∧ hd.take 4 = [0x71, 0x6F, 0x69, 0x66] ∧ hd[12]? = some 3 :=
  ⟨[0x71, 0x6F, 0x69, 0x66, 0, 0, 0, 4, 0, 0, 0, 2, 3, 0], rfl, rfl, rfl⟩

end Sys2Proof.Tests
end

section
/-! PROOF. The byte arithmetic of spec/00_scope.md R10 as arithmetic on numbers: wraparound addition, subtraction of a
bias, and the signed reading. -/

namespace Sys2Proof.Machine

open Sys2Proof

@[simp] theorem add8_toNat (x y : Byte) : (add8 x y).toNat = (x.toNat + y.toNat) % 256 :=
  BitVec.toNat_add x y

/-- `bias_k` wraps: in the bit-vector library it adds the complement `256 - k`, so the difference is taken in `Int`. -/
theorem bias_toNat (k v : Byte) : ((bias k v).toNat : Int) = ((v.toNat : Int) - (k.toNat : Int)) % 256 := by
  have complement : (bias k v).toNat = (256 - k.toNat + v.toNat) % 256 := BitVec.toNat_sub v k
  have k_lt : k.toNat < 256 := k.isLt
  omega

theorem s8_eq_ite (x : Byte) : s8 x = if x.toNat < 128 then (x.toNat : Int) else (x.toNat : Int) - 256 :=
  rfl

/-- Settles O23: wraparound addition, subtraction of a bias and the signed reading, each by its own rule. -/
theorem wraparoundArithmetic : Obligations.WraparoundArithmetic :=
  ⟨add8_toNat, bias_toNat, s8_eq_ite⟩

end Sys2Proof.Machine
end

section
/-! PROOF. The session-initial state of spec/10_state.md R26, and the `STATUS` word of R24 as a number. -/

namespace Sys2Proof.Machine

open Sys2Proof

/-! ## The STATUS word -/

/-- The upper part of a concatenation is shifted past the lower one, so the `or` of the two is a sum. -/
theorem toNat_append_eq_add {n m : Nat} (x : BitVec n) (y : BitVec m) :
    (x ++ y).toNat = x.toNat * 2 ^ m + y.toNat := by
  rw [BitVec.toNat_append, ← Nat.shiftLeft_add_eq_or_of_lt y.isLt, Nat.shiftLeft_eq]

/-- Each field of `STATUS` at its weight: PHASE 1, CAUSE 4, RUN_ACTIVE 16, RUN_REMAINING 32, REFILL 2048 (R24). -/
theorem status_toNat (s : State) :
    s.status.toNat = s.phase.code.toNat + 4 * s.cause.code.toNat + 16 * s.runActive.toNat +
      32 * s.runRemaining.toNat + 2048 * s.refill.val := by
  have refill_fits : s.refill.val % 16 = s.refill.val := Nat.mod_eq_of_lt (by omega)
  simp only [State.status, toNat_append_eq_add, BitVec.ofNat_eq_ofNat, BitVec.toNat_ofNat,
    BitVec.toNat_ofBool]
  omega

/-- The fields of `STATUS` do not overlap, and the bits above REFILL are 0 (R24). -/
theorem status_fields (s : State) :
    s.status.toNat % 4 = s.phase.code.toNat ∧
    s.status.toNat / 4 % 4 = s.cause.code.toNat ∧
    s.status.toNat / 16 % 2 = s.runActive.toNat ∧
    s.status.toNat / 32 % 64 = s.runRemaining.toNat ∧
    s.status.toNat / 2048 % 16 = s.refill.val ∧
    s.status.toNat / 32768 = 0 := by
  have word := status_toNat s
  have phase_lt := s.phase.code.isLt
  have cause_lt := s.cause.code.isLt
  have active_lt := s.runActive.toNat_lt
  have remaining_lt := s.runRemaining.isLt
  have refill_lt := s.refill.isLt
  omega

/-! ## The session-initial state -/

theorem initialise_sessionInitial (p : Phase) (s : State) : SessionInitial p (s.initialise p) where
  phase := rfl
  cause := rfl
  prev := rfl
  cache := fun j => Vector.getElem_replicate j.isLt
  runActive := rfl
  runRemaining := rfl
  win := fun j => Vector.getElem_replicate j.isLt
  refill := rfl

/-- The machine's reset value is what session initialisation makes of it. -/
theorem reset_sessionInitial : SessionInitial .idle State.reset :=
  initialise_sessionInitial .idle State.reset

/-- In a session-initial state only PHASE and REFILL, which is 8, contribute to `STATUS`. -/
theorem SessionInitial.status_toNat {p : Phase} {s : State} (h : SessionInitial p s) :
    s.status.toNat = p.code.toNat + 0x4000 := by
  rw [Machine.status_toNat, h.phase, h.cause, h.runActive, h.runRemaining, h.refill]
  simp [Cause.code]

theorem SessionInitial.status_idle {s : State} (h : SessionInitial .idle s) : s.status = 0x00004000 :=
  BitVec.eq_of_toNat_eq h.status_toNat

theorem SessionInitial.status_streaming {s : State} (h : SessionInitial .streaming s) : s.status = 0x00004001 :=
  BitVec.eq_of_toNat_eq h.status_toNat

theorem sessionInitial_of_step_reset {s t : State} (hi : s.inputs.head? = some .reset) (h : step s = .next t) :
    SessionInitial .idle t := by
  obtain ⟨rest, hi⟩ := List.head?_eq_some_iff.mp hi
  obtain rfl := Host.Outcome.next.inj ((step_reset hi).symm.trans h)
  exact initialise_sessionInitial _ _

theorem sessionInitial_of_step_start {s t : State} (hi : s.inputs.head? = some .start) (h : step s = .next t) :
    SessionInitial .streaming t := by
  obtain ⟨rest, hi⟩ := List.head?_eq_some_iff.mp hi
  obtain rfl := Host.Outcome.next.inj ((step_start hi).symm.trans h)
  exact initialise_sessionInitial _ _

/-- Settles O1: both commands go through session initialisation, and the reset value is its own initialisation. -/
theorem initialStateAfterResetAndStart : Obligations.InitialStateAfterResetAndStart := by
  refine ⟨reset_sessionInitial, reset_sessionInitial.status_idle, fun s rest hi => ?_, fun s rest hi => ?_⟩
  · have init := sessionInitial_of_step_reset (by simp [hi]) (step_reset hi)
    exact ⟨_, step_reset hi, init, init.status_idle⟩
  · have init := sessionInitial_of_step_start (by simp [hi]) (step_start hi)
    exact ⟨_, step_start hi, init, init.status_streaming⟩

/-- Settles O9: the fields by the word's value as a weighted sum, the two constants by the session-initial state. -/
theorem statusWordFields : Obligations.StatusWordFields :=
  ⟨status_fields, reset_sessionInitial.status_idle,
    fun _ _ hi h => (sessionInitial_of_step_reset hi h).status_idle,
    fun _ _ hi h => (sessionInitial_of_step_start hi h).status_streaming⟩

end Sys2Proof.Machine
end

section
/-! PROOF. Phase and cause: what a step can do to them, said once, and from it the transitions of spec/10_state.md
R22 and the writers of `cause` of R23. -/

namespace Sys2Proof.Machine

open Sys2Proof

/-! ## Every window decodes -/

/-- The four values of the tag's top two bits are all taken, so the last arm of `classify` is never reached
(spec/30_encoding.md R58). -/
theorem classify_ne_badChunk (b : Byte) : classify b ≠ .badChunk := by
  have top_values : ∀ x : BitVec 2, x = 0b00 ∨ x = 0b01 ∨ x = 0b10 ∨ x = 0b11 := by decide
  intro h
  unfold classify at h
  split_ifs at h with _ _ h0 h1 h2 h3
  rcases top_values (tagTop b) with hx | hx | hx | hx
  · exact h0 hx
  · exact h1 hx
  · exact h2 hx
  · exact h3 hx

theorem decodeChunk_ne_error (w : Window) (r : Reject) : decodeChunk w ≠ .error r := by
  unfold decodeChunk
  split
  case h_7 hk => exact absurd hk (classify_ne_badChunk _)
  all_goals exact nofun

/-- No window is undecodable, so no step raises BAD_CHUNK (spec/30_encoding.md R58). -/
theorem decodeWindow_ne_error (w : Window) (r : Reject) : decodeWindow w ≠ .error r := by
  unfold decodeWindow
  split
  · exact nofun
  · exact decodeChunk_ne_error w r

/-! ## What a step does to phase and cause -/

/-- The rule of a chunk touches neither phase nor cause, and answers with a pixel. -/
theorem exec_chunk_control {i : Instr} {s t : State} (hi : i ≠ .endMarker) (h : exec i s = .next t) :
    t.phase = s.phase ∧ t.cause = s.cause ∧ ∃ p, t.response = some (.pixel p) := by
  rcases exec_cases i s with ⟨rfl, -⟩ | ⟨-, p, e⟩ | ⟨j, -, e⟩ | ⟨n, -, e⟩
  · exact absurd rfl hi
  all_goals
    obtain rfl := Host.Outcome.next.inj (e.symm.trans h)
    exact ⟨rfl, rfl, _, rfl⟩

/-- What a step from `s` to `t` does to phase and cause, with the input, the decoded instruction and the response that
go with it. -/
inductive ControlCase (s t : State) : Prop where
  /-- `RESET`. -/
  | reset (hi : s.inputs.head? = some .reset) (hd : s.chunkAt = none) (hp : t.phase = .idle) (hc : t.cause = .none)
      (hr : t.response = none)
  /-- `START`. -/
  | start (hi : s.inputs.head? = some .start) (hd : s.chunkAt = none) (hp : t.phase = .streaming)
      (hc : t.cause = .none) (hr : t.response = none)
  /-- Any other step that neither meets the end marker nor raises a fault; a fault response repeats an old one. -/
  | kept (hreset : s.inputs.head? ≠ some .reset) (hstart : s.inputs.head? ≠ some .start)
      (hd : s.chunkAt ≠ some .endMarker) (hp : t.phase = s.phase) (hc : t.cause = s.cause)
      (hr : ∀ c, t.response = some (.fault c) → s.phase = .faulted)
  /-- The end marker. -/
  | finished (hi : s.inputs.head? = some .pull) (hs : s.phase = .streaming) (hd : s.chunkAt = some .endMarker)
      (hp : t.phase = .ended) (hc : t.cause = s.cause) (hr : t.response = some .endOfStream)
  /-- A failed refill: the one fault a step raises. -/
  | sourceFault (src : Source) (hi : s.inputs.head? = some .pull) (hs : s.phase = .streaming)
      (hread : s.source.read s.refill.val = .srcFail src) (hd : s.chunkAt = none) (hp : t.phase = .faulted)
      (hc : t.cause = .sourceIo) (hr : t.response = some (.fault .sourceIo))

theorem chunkAt_of_no_pull {s : State} (h : s.inputs.head? ≠ some .pull) : s.chunkAt = none :=
  chunkAt_eq_none fun _ _ _ d => absurd (by rw [d.pull]; rfl) h

theorem chunkAt_of_not_streaming {s : State} (h : s.phase ≠ .streaming) : s.chunkAt = none :=
  chunkAt_eq_none fun _ _ _ d => absurd d.streaming h

theorem chunkAt_of_runPending {s : State} (h : s.runPending = true) : s.chunkAt = none :=
  chunkAt_eq_none fun _ _ _ d => absurd (runPending_eq_false.mpr d.noRun) (by simp [h])

theorem chunkAt_of_no_bytes {s : State} (h : ∀ bs src, s.source.read s.refill.val ≠ .bytes bs src) :
    s.chunkAt = none :=
  chunkAt_eq_none fun _ bs src _ => h bs src

theorem controlCase_of_step {s t : State} (h : step s = .next t) : ControlCase s t := by
  cases step_cases h with
  | idle hi e =>
    subst e
    exact .kept (by simp [hi]) (by simp [hi]) (by simp [chunkAt_of_no_pull, hi]) rfl rfl nofun
  | reset rest hi e =>
    subst e
    exact .reset (by simp [hi]) (chunkAt_of_no_pull (by simp [hi])) rfl rfl rfl
  | start rest hi e =>
    subst e
    exact .start (by simp [hi]) (chunkAt_of_no_pull (by simp [hi])) rfl rfl rfl
  | attach src rest hi e =>
    subst e
    exact .kept (by simp [hi]) (by simp [hi]) (by simp [chunkAt_of_no_pull, hi]) rfl rfl nofun
  | notStarted rest hi hp e =>
    subst e
    exact .kept (by simp [hi]) (by simp [hi]) (by simp [chunkAt_of_not_streaming, hp]) rfl rfl nofun
  | afterEnd rest hi hp e =>
    subst e
    exact .kept (by simp [hi]) (by simp [hi]) (by simp [chunkAt_of_not_streaming, hp]) rfl rfl nofun
  | afterFault rest hi hp e =>
    subst e
    exact .kept (by simp [hi]) (by simp [hi]) (by simp [chunkAt_of_not_streaming, hp]) rfl rfl fun _ _ => hp
  | continuation rest hi hp hr e =>
    subst e
    exact .kept (by simp [hi]) (by simp [hi]) (by simp [chunkAt_of_runPending hr]) rfl rfl nofun
  | readFailed rest src d hs e =>
    subst e
    exact .sourceFault src (by simp [d.pull]) d.streaming hs (chunkAt_of_no_bytes (by simp [hs])) rfl rfl rfl
  | readWaiting rest src d hs e =>
    subst e
    exact .kept (by simp [d.pull]) (by simp [d.pull]) (by simp [chunkAt_of_no_bytes, hs]) rfl rfl nofun
  | undecodable rest bs src r d hs hw e => exact absurd hw (decodeWindow_ne_error _ r)
  | decoded rest bs src i d hs hw e =>
    have hd : s.chunkAt = some i := by rw [chunkAt_of_bytes d hs, hw]; rfl
    by_cases hm : i = .endMarker
    · subst hm
      obtain rfl := Host.Outcome.next.inj e
      exact .finished (by simp [d.pull]) d.streaming hd rfl rfl rfl
    · obtain ⟨hp, hc, p, hr⟩ := exec_chunk_control hm e
      exact .kept (by simp [d.pull]) (by simp [d.pull]) (by simpa [hd] using hm) (by simpa using hp)
        (by simpa using hc) (by simp [hr])

/-! ## The transitions, and the writers of cause -/

/-- A phase change is one of the four transitions of R22. -/
theorem phase_change_cases {s t : State} (h : step s = .next t) (hne : t.phase ≠ s.phase) :
    (s.inputs.head? = some .start ∧ t.phase = .streaming) ∨
    (s.inputs.head? = some .reset ∧ t.phase = .idle) ∨
    (s.inputs.head? = some .pull ∧ s.phase = .streaming ∧ t.phase = .ended ∧ s.chunkAt = some .endMarker) ∨
    (s.inputs.head? = some .pull ∧ s.phase = .streaming ∧ t.phase = .faulted ∧
      t.response = some (.fault t.cause)) := by
  cases controlCase_of_step h with
  | reset hi hd hp hc hr => exact .inr (.inl ⟨hi, hp⟩)
  | start hi hd hp hc hr => exact .inl ⟨hi, hp⟩
  | kept hreset hstart hd hp hc hr => exact absurd hp hne
  | finished hi hs hd hp hc hr => exact .inr (.inr (.inl ⟨hi, hs, hp, hd⟩))
  | sourceFault src hi hs hread hd hp hc hr => exact .inr (.inr (.inr ⟨hi, hs, hp, by rw [hr, hc]⟩))

/-- Each event of R22 makes its transition. -/
theorem phase_after_event {s t : State} (h : step s = .next t) :
    (s.inputs.head? = some .start → t.phase = .streaming) ∧ (s.inputs.head? = some .reset → t.phase = .idle) ∧
    (s.chunkAt = some .endMarker → t.phase = .ended) ∧
    (s.phase = .streaming → ∀ c, t.response = some (.fault c) → t.phase = .faulted) := by
  cases controlCase_of_step h with
  | reset hi hd hp hc hr => simp [hi, hd, hp, hr]
  | start hi hd hp hc hr => simp [hi, hd, hp, hr]
  | kept hreset hstart hd hp hc hr =>
    exact ⟨fun hi => absurd hi hstart, fun hi => absurd hi hreset, fun hm => absurd hm hd,
      fun _ c hf => hp.trans (hr c hf)⟩
  | finished hi hs hd hp hc hr => simp [hi, hp, hr]
  | sourceFault src hi hs hread hd hp hc hr => simp [hi, hd, hp]

/-- Settles O7: by what a step can do to the phase. -/
theorem phaseCodesAndTransitions : Obligations.PhaseCodesAndTransitions :=
  ⟨rfl, rfl, rfl, rfl, fun _ _ => phase_change_cases, fun _ _ => phase_after_event⟩

/-- Settles O8: by what a step can do to the cause; since every window decodes, a failed refill is the only fault. -/
theorem causeCodesAndWriters : Obligations.CauseCodesAndWriters := by
  refine ⟨rfl, rfl, rfl, rfl, fun s t h hne => ?_⟩
  cases controlCase_of_step h with
  | reset hi hd hp hc hr => exact .inl ⟨.inl hi, hc⟩
  | start hi hd hp hc hr => exact .inl ⟨.inr hi, hc⟩
  | kept hreset hstart hd hp hc hr => exact absurd hc hne
  | finished hi hs hd hp hc hr => exact absurd hc hne
  | sourceFault src hi hs hread hd hp hc hr => exact .inr ⟨hs, hp, by rw [hr, hc], hc, src, hread⟩

end Sys2Proof.Machine
end

section
/-! PROOF. The byte source of spec/20_memory.md R28 to R30: what a step takes from it. -/

namespace Sys2Proof.Machine

open Sys2Proof

/-- The rule of an instruction reads no byte: only the refill does (R30). -/
theorem exec_source_pos {i : Instr} {s t : State} (h : exec i s = .next t) : t.source = s.source ∧ t.pos = s.pos := by
  rcases exec_cases i s with ⟨-, e⟩ | ⟨-, p, e⟩ | ⟨j, -, e⟩ | ⟨n, -, e⟩
  all_goals
    obtain rfl := Host.Outcome.next.inj (e.symm.trans h)
    exact ⟨rfl, rfl⟩

/-- A step either leaves the source's bytes alone, or is a window step and takes some of them off the front, at most as
many as its refill asks for; a failed read takes an unknown number (R29). -/
theorem source_cases_of_step {s t : State} (h : step s = .next t) (hattach : ∀ src, s.inputs.head? ≠ some (.attach src)) :
    (t.source.bytes = s.source.bytes ∧ (s.initialises ∨ t.pos = s.pos)) ∨
    ∃ rest, WindowStepDue s rest ∧ ∃ k ≤ s.refill.val, k ≤ s.source.bytes.length ∧
      t.source.bytes = s.source.bytes.drop k ∧ (t.phase = .faulted ∨ t.pos = s.pos + k) := by
  cases step_cases h with
  | reset rest hi e =>
    subst e
    exact .inl ⟨rfl, .inl (.inl (by simp [hi]))⟩
  | start rest hi e =>
    subst e
    exact .inl ⟨rfl, .inl (.inr (by simp [hi]))⟩
  | attach src rest hi e => exact absurd (by simp [hi]) (hattach src)
  | idle hi e | notStarted rest hi hp e | afterEnd rest hi hp e | afterFault rest hi hp e
  | continuation rest hi hp hr e =>
    subst e
    exact .inl ⟨rfl, .inr rfl⟩
  | readWaiting rest src d hs e =>
    subst e
    exact .inl ⟨(Source.read_waiting hs).1, .inr rfl⟩
  | readFailed rest src d hs e =>
    subst e
    have whole : src.bytes = s.source.bytes := (Source.read_srcFail hs).1
    obtain ⟨le_refill, le_length⟩ := takenByFailure_le s.freeIndex s.refill.val s.source.bytes.length
    exact .inr ⟨rest, d, _, le_refill, le_length, by simp [whole], .inl rfl⟩
  | undecodable rest bs src r d hs hw e => exact absurd hw (decodeWindow_ne_error _ r)
  | decoded rest bs src i d hs hw e =>
    obtain ⟨enough, -, -, left, -⟩ := Source.read_bytes hs
    obtain ⟨hsource, hpos⟩ := exec_source_pos e
    exact .inr ⟨rest, d, s.refill.val, le_rfl, enough, by simp [hsource, left], .inr (by simp [hpos])⟩

/-- Settles O49: a step that takes bytes is a window step, whose refill is at most 8; any other step takes none. -/
theorem sourceReadOnceInOrder : Obligations.SourceReadOnceInOrder := by
  intro s t h hattach
  rcases source_cases_of_step h hattach with ⟨same, pos⟩ | ⟨rest, due, k, le_refill, le_length, taken, pos⟩
  · exact ⟨0, by omega, by simpa using same, by omega, pos.imp_right .inr, fun _ => rfl⟩
  · exact ⟨k, by omega, taken, le_length, .inr pos, fun none_due => absurd due (none_due rest)⟩

end Sys2Proof.Machine
end

section
/-! PROOF. The writers of the pixel cache, spec/20_memory.md R38. -/

namespace Sys2Proof.Machine

open Sys2Proof

/-- The decoded instruction, if any, is a ColorRGB, ColorRGBA, Diff or Luma chunk: one of those whose pixel is written to
the cache (R38). -/
def WritesCache (chunk : Option Instr) : Prop :=
  (∃ r g b, chunk = some (.rgb r g b)) ∨ (∃ r g b a, chunk = some (.rgba r g b a)) ∨
  (∃ dr dg db, chunk = some (.diff dr dg db)) ∨ (∃ dg drdg dbdg, chunk = some (.luma dg drdg dbdg))

theorem not_writesCache_none : ¬ WritesCache none := by simp [WritesCache]

/-- The four writing chunks produce their pixel through the cache; every other instruction leaves the cache alone. -/
theorem exec_cache_cases {i : Instr} {s t : State} (h : exec i s = .next t) :
    (WritesCache (some i) ∧ ∃ p, t = s.produce p) ∨ (¬ WritesCache (some i) ∧ t.cache = s.cache) := by
  cases i with
  | rgb r g b => exact .inl ⟨.inl ⟨r, g, b, rfl⟩, _, (Host.Outcome.next.inj h).symm⟩
  | rgba r g b a => exact .inl ⟨.inr (.inl ⟨r, g, b, a, rfl⟩), _, (Host.Outcome.next.inj h).symm⟩
  | diff dr dg db => exact .inl ⟨.inr (.inr (.inl ⟨dr, dg, db, rfl⟩)), _, (Host.Outcome.next.inj h).symm⟩
  | luma dg drdg dbdg => exact .inl ⟨.inr (.inr (.inr ⟨dg, drdg, dbdg, rfl⟩)), _, (Host.Outcome.next.inj h).symm⟩
  | endMarker | index j | run n =>
    obtain rfl := Host.Outcome.next.inj h
    exact .inr ⟨by simp [WritesCache], rfl⟩

/-- Beside session initialisation, only the rule of a decoded instruction touches `prev` or the cache, and it starts from
the old ones. -/
theorem prev_cache_of_step {s t : State} (h : step s = .next t) :
    (s.chunkAt = none ∧ (s.initialises ∨ t.prev = s.prev ∧ t.cache = s.cache)) ∨
    ∃ i u, s.chunkAt = some i ∧ exec i u = .next t ∧ u.prev = s.prev ∧ u.cache = s.cache := by
  cases step_cases h with
  | reset rest hi e => exact .inl ⟨chunkAt_of_no_pull (by simp [hi]), .inl (.inl (by simp [hi]))⟩
  | start rest hi e => exact .inl ⟨chunkAt_of_no_pull (by simp [hi]), .inl (.inr (by simp [hi]))⟩
  | idle hi e | attach src rest hi e =>
    subst e
    exact .inl ⟨chunkAt_of_no_pull (by simp [hi]), .inr ⟨rfl, rfl⟩⟩
  | notStarted rest hi hp e | afterEnd rest hi hp e | afterFault rest hi hp e =>
    subst e
    exact .inl ⟨chunkAt_of_not_streaming (by simp [hp]), .inr ⟨rfl, rfl⟩⟩
  | continuation rest hi hp hr e =>
    subst e
    exact .inl ⟨chunkAt_of_runPending hr, .inr ⟨rfl, rfl⟩⟩
  | readFailed rest src d hs e | readWaiting rest src d hs e =>
    subst e
    exact .inl ⟨chunkAt_of_no_bytes (by simp [hs]), .inr ⟨rfl, rfl⟩⟩
  | undecodable rest bs src r d hs hw e => exact absurd hw (decodeWindow_ne_error _ r)
  | decoded rest bs src i d hs hw e =>
    have hd : s.chunkAt = some i := by rw [chunkAt_of_bytes d hs, hw]; rfl
    exact .inr ⟨i, _, hd, e, by simp, by simp⟩

/-- A step that decodes a writing chunk writes the pixel it answers with, in that pixel's slot and no other; any other step
leaves the cache alone or initialises the session (R38). -/
theorem cache_cases_of_step {s t : State} (h : step s = .next t) :
    (WritesCache s.chunkAt ∧ CacheWritten s t t.prev ∧ t.response = some (.pixel t.prev)) ∨
    (¬ WritesCache s.chunkAt ∧ (s.initialises ∨ t.cache = s.cache)) := by
  rcases prev_cache_of_step h with ⟨hd, kept⟩ | ⟨i, u, hd, he, -, hcache⟩ <;> rw [hd]
  · exact .inr ⟨not_writesCache_none, kept.imp_right And.right⟩
  · rcases exec_cache_cases he with ⟨writes, p, rfl⟩ | ⟨no_write, same⟩
    · have written : CacheWritten s (u.produce p) p := by
        simpa only [CacheWritten, hcache] using produce_cacheWritten u p
      exact .inl ⟨writes, written, rfl⟩
    · exact .inr ⟨no_write, .inr (same.trans hcache)⟩

/-- Settles O51: a slot that changed without initialisation is the one a writing chunk wrote, and such a chunk always
writes. -/
theorem cacheWrittenOnlyByItsChunks : Obligations.CacheWrittenOnlyByItsChunks := by
  refine ⟨fun s t j h changed => ?_, fun s t h writes => ?_⟩
  · rcases cache_cases_of_step h with ⟨writes, written, response⟩ | ⟨-, init | same⟩
    · have slot : j.val = slotNumber t.prev := by
        by_contra other
        exact changed ((written j).trans (if_neg other))
      exact .inr ⟨slot.symm, (written j).trans (if_pos slot), response, writes⟩
    · exact .inl init
    · exact absurd (by rw [same]) changed
  · rcases cache_cases_of_step h with ⟨-, written, -⟩ | ⟨no_write, -⟩
    · exact written
    · exact absurd writes no_write

end Sys2Proof.Machine
end

section
/-! PROOF. The decoder of spec/30_encoding.md: the fields of the tag byte as numbers, one equation of `decodeWindow` for
each range of tags, and from them the operands of R50, the end marker of R57 and the Index chunk of R59. -/

namespace Sys2Proof.Machine

open Sys2Proof

/-! ## The fields as numbers -/

@[simp] theorem tagTop_toNat (t : Byte) : (tagTop t).toNat = t.toNat / 64 := by
  have t_lt := t.isLt
  simp only [tagTop, BitVec.extractLsb'_toNat, Nat.shiftRight_eq_div_pow]
  omega

@[simp] theorem tagPayload_toNat (t : Byte) : (tagPayload t).toNat = t.toNat % 64 := by
  simp [tagPayload]

@[simp] theorem diffRed_toNat (t : Byte) : (diffRed t).toNat = t.toNat / 16 % 4 := by
  simp [diffRed, Nat.shiftRight_eq_div_pow]

@[simp] theorem diffGreen_toNat (t : Byte) : (diffGreen t).toNat = t.toNat / 4 % 4 := by
  simp [diffGreen, Nat.shiftRight_eq_div_pow]

@[simp] theorem diffBlue_toNat (t : Byte) : (diffBlue t).toNat = t.toNat % 4 := by
  simp [diffBlue]

@[simp] theorem lumaRed_toNat (b : Byte) : (lumaRed b).toNat = b.toNat / 16 := by
  have b_lt := b.isLt
  simp only [lumaRed, BitVec.extractLsb'_toNat, Nat.shiftRight_eq_div_pow]
  omega

@[simp] theorem lumaBlue_toNat (b : Byte) : (lumaBlue b).toNat = b.toNat % 16 := by
  simp [lumaBlue]

/-! ## The biased fields as signed numbers -/

/-- A field of at most 7 bits less a bias of at most 128 does not wrap past the sign, so the signed reading is the
difference. -/
theorem s8_bias_setWidth {n : Nat} {k : Byte} (hn : n ≤ 7) (hk : k.toNat ≤ 128) (raw : BitVec n) :
    s8 (bias k (raw.setWidth 8)) = (raw.toNat : Int) - (k.toNat : Int) := by
  have raw_lt : raw.toNat < 2 ^ 7 := Nat.lt_of_lt_of_le raw.isLt (Nat.pow_le_pow_right (by decide) hn)
  have field : (raw.setWidth 8).toNat = raw.toNat := BitVec.toNat_setWidth_of_le (by omega)
  have number := bias_toNat k (raw.setWidth 8)
  rw [s8_eq_ite]
  split <;> omega

@[simp] theorem s8_diffDelta (raw : BitVec 2) : s8 (diffDelta raw) = (raw.toNat : Int) - (2 : Int) :=
  s8_bias_setWidth (by decide) (by decide) raw

@[simp] theorem s8_lumaGreenDelta (raw : BitVec 6) : s8 (lumaGreenDelta raw) = (raw.toNat : Int) - (32 : Int) :=
  s8_bias_setWidth (by decide) (by decide) raw

@[simp] theorem s8_lumaNibbleDelta (raw : BitVec 4) : s8 (lumaNibbleDelta raw) = (raw.toNat : Int) - (8 : Int) :=
  s8_bias_setWidth (by decide) (by decide) raw

/-! ## The end marker -/

theorem isEndMarker_iff (w : Window) : IsEndMarker w ↔ w = endMarkerWindow :=
  Vector.toList_inj (ys := endMarkerWindow)

theorem decodeWindow_endMarker {w : Window} (hm : IsEndMarker w) : decodeWindow w = .ok .endMarker :=
  if_pos ((isEndMarker_iff w).mp hm)

theorem decodeWindow_of_not_endMarker {w : Window} (hm : ¬ IsEndMarker w) : decodeWindow w = decodeChunk w :=
  if_neg fun e => hm ((isEndMarker_iff w).mpr e)

/-- No chunk kind answers the end marker: it is not a tag's meaning (R57). -/
theorem decodeChunk_ne_endMarker (w : Window) : decodeChunk w ≠ .ok .endMarker := by
  unfold decodeChunk
  split <;> exact nofun

theorem decodeWindow_eq_endMarker_iff (w : Window) : decodeWindow w = .ok .endMarker ↔ IsEndMarker w := by
  refine ⟨fun h => ?_, decodeWindow_endMarker⟩
  by_contra hm
  rw [decodeWindow_of_not_endMarker hm] at h
  exact decodeChunk_ne_endMarker w h

/-- Settles O14: the comparison with the end marker comes before the tag, and no tag answers END. -/
theorem endMarkerIsTheWholeWindow : Obligations.EndMarkerIsTheWholeWindow :=
  ⟨decodeWindow_eq_endMarker_iff, rfl, rfl⟩

/-! ## The chunk by the number of the tag -/

/-- R48's table with each condition on the tag's number. -/
theorem classify_eq_ite (t : Byte) :
    classify t =
      if t.toNat = 0xFE then .rgb
      else if t.toNat = 0xFF then .rgba
      else if t.toNat / 64 = 0 then .index
      else if t.toNat / 64 = 1 then .diff
      else if t.toNat / 64 = 2 then .luma
      else if t.toNat / 64 = 3 then .run
      else .badChunk := by
  simp only [classify, ← BitVec.toNat_inj, tagTop_toNat]
  rfl

section
variable {w : Window} (hm : ¬ IsEndMarker w)
include hm

theorem decodeWindow_rgb (ht : w[0].toNat = 0xFE) : decodeWindow w = .ok (.rgb w[1] w[2] w[3]) := by
  have kind : classify w[0] = .rgb := by
    rw [classify_eq_ite, if_pos ht]
  simp only [decodeWindow_of_not_endMarker hm, decodeChunk, kind]

theorem decodeWindow_rgba (ht : w[0].toNat = 0xFF) : decodeWindow w = .ok (.rgba w[1] w[2] w[3] w[4]) := by
  have kind : classify w[0] = .rgba := by
    rw [classify_eq_ite, if_neg (by omega), if_pos ht]
  simp only [decodeWindow_of_not_endMarker hm, decodeChunk, kind]

theorem decodeWindow_index (ht : w[0].toNat ≤ 0x3F) : decodeWindow w = .ok (.index (tagPayload w[0])) := by
  have kind : classify w[0] = .index := by
    rw [classify_eq_ite, if_neg (by omega), if_neg (by omega), if_pos (by omega)]
  simp only [decodeWindow_of_not_endMarker hm, decodeChunk, kind]

theorem decodeWindow_diff (lo : 0x40 ≤ w[0].toNat) (hi : w[0].toNat ≤ 0x7F) :
    decodeWindow w =
      .ok (.diff (diffDelta (diffRed w[0])) (diffDelta (diffGreen w[0])) (diffDelta (diffBlue w[0]))) := by
  have kind : classify w[0] = .diff := by
    rw [classify_eq_ite, if_neg (by omega), if_neg (by omega), if_neg (by omega), if_pos (by omega)]
  simp only [decodeWindow_of_not_endMarker hm, decodeChunk, kind]

theorem decodeWindow_luma (lo : 0x80 ≤ w[0].toNat) (hi : w[0].toNat ≤ 0xBF) :
    decodeWindow w =
      .ok (.luma (lumaGreenDelta (tagPayload w[0])) (lumaNibbleDelta (lumaRed w[1]))
        (lumaNibbleDelta (lumaBlue w[1]))) := by
  have kind : classify w[0] = .luma := by
    rw [classify_eq_ite, if_neg (by omega), if_neg (by omega), if_neg (by omega), if_neg (by omega),
      if_pos (by omega)]
  simp only [decodeWindow_of_not_endMarker hm, decodeChunk, kind]

theorem decodeWindow_run (lo : 0xC0 ≤ w[0].toNat) (hi : w[0].toNat ≤ 0xFD) :
    decodeWindow w = .ok (.run (tagPayload w[0])) := by
  have kind : classify w[0] = .run := by
    rw [classify_eq_ite, if_neg (by omega), if_neg (by omega), if_neg (by omega), if_neg (by omega),
      if_neg (by omega), if_pos (by omega)]
  simp only [decodeWindow_of_not_endMarker hm, decodeChunk, kind]

end

/-- Settles O16: below 64 the tag's payload is the whole tag. -/
theorem indexDecodedFromTagAlone : Obligations.IndexDecodedFromTagAlone := by
  intro w hm ht
  have payload : tagPayload w[0] = BitVec.ofNat 6 w[0].toNat := BitVec.eq_of_toNat_eq (by simp)
  rw [decodeWindow_index hm (by omega), payload]

/-- Settles O13: the equation of each range of tags, its operands read as numbers. -/
theorem operandAssembly : Obligations.OperandAssembly := by
  intro w hm
  refine ⟨decodeWindow_rgb hm, decodeWindow_rgba hm, fun ht => ?_, fun lo hi => ?_, fun lo hi => ?_,
    fun lo hi => ?_⟩
  · exact ⟨_, decodeWindow_index hm ht, by simp⟩
  · exact ⟨_, _, _, decodeWindow_diff hm lo hi, by simp, by simp, by simp⟩
  · exact ⟨_, _, _, decodeWindow_luma hm lo hi, by simp, by simp, by simp⟩
  · exact ⟨_, decodeWindow_run hm lo hi, by simp, by rw [tagPayload_toNat]; omega⟩

end Sys2Proof.Machine
end

section
/-! PROOF. What a window can decode to, and that it is well-formed and spelled by the first bytes of that window
(spec/30_encoding.md R46, R50, R58). -/

namespace Sys2Proof.Machine

open Sys2Proof

/-! ## Everything a window can decode to -/

/-- How `decodeWindow w` came to answer `i`: the end marker, or the range of the tag and the operands. -/
inductive DecodeCase (w : Window) (i : Instr) : Prop where
  | endMarker (hm : IsEndMarker w) (e : i = .endMarker)
  | rgb (ht : w[0].toNat = 0xFE) (e : i = .rgb w[1] w[2] w[3])
  | rgba (ht : w[0].toNat = 0xFF) (e : i = .rgba w[1] w[2] w[3] w[4])
  | index (ht : w[0].toNat ≤ 0x3F) (e : i = .index (tagPayload w[0]))
  | diff (lo : 0x40 ≤ w[0].toNat) (hi : w[0].toNat ≤ 0x7F)
      (e : i = .diff (diffDelta (diffRed w[0])) (diffDelta (diffGreen w[0])) (diffDelta (diffBlue w[0])))
  | luma (lo : 0x80 ≤ w[0].toNat) (hi : w[0].toNat ≤ 0xBF)
      (e : i = .luma (lumaGreenDelta (tagPayload w[0])) (lumaNibbleDelta (lumaRed w[1]))
        (lumaNibbleDelta (lumaBlue w[1])))
  | run (lo : 0xC0 ≤ w[0].toNat) (hi : w[0].toNat ≤ 0xFD) (e : i = .run (tagPayload w[0]))

/-- The inversion of `decodeWindow`: the ranges of tags are all there are. -/
theorem decodeWindow_cases {w : Window} {i : Instr} (h : decodeWindow w = .ok i) : DecodeCase w i := by
  by_cases hm : IsEndMarker w
  · exact .endMarker hm (Except.ok.inj (h.symm.trans (decodeWindow_endMarker hm)))
  have tag_lt := w[0].isLt
  have ranges : w[0].toNat ≤ 0x3F ∨ (0x40 ≤ w[0].toNat ∧ w[0].toNat ≤ 0x7F) ∨
      (0x80 ≤ w[0].toNat ∧ w[0].toNat ≤ 0xBF) ∨ (0xC0 ≤ w[0].toNat ∧ w[0].toNat ≤ 0xFD) ∨
      w[0].toNat = 0xFE ∨ w[0].toNat = 0xFF := by omega
  rcases ranges with ht | ⟨lo, hi⟩ | ⟨lo, hi⟩ | ⟨lo, hi⟩ | ht | ht
  · exact .index ht (Except.ok.inj (h.symm.trans (decodeWindow_index hm ht)))
  · exact .diff lo hi (Except.ok.inj (h.symm.trans (decodeWindow_diff hm lo hi)))
  · exact .luma lo hi (Except.ok.inj (h.symm.trans (decodeWindow_luma hm lo hi)))
  · exact .run lo hi (Except.ok.inj (h.symm.trans (decodeWindow_run hm lo hi)))
  · exact .rgb ht (Except.ok.inj (h.symm.trans (decodeWindow_rgb hm ht)))
  · exact .rgba ht (Except.ok.inj (h.symm.trans (decodeWindow_rgba hm ht)))

/-! ## Its operands are in range -/

@[simp] theorem diffDeltaOk_diffDelta (raw : BitVec 2) : diffDeltaOk (diffDelta raw) = true := by
  have raw_lt := raw.isLt
  simp only [diffDeltaOk, s8_diffDelta, Bool.and_eq_true, decide_eq_true_eq]
  omega

@[simp] theorem lumaGreenOk_lumaGreenDelta (raw : BitVec 6) : lumaGreenOk (lumaGreenDelta raw) = true := by
  have raw_lt := raw.isLt
  simp only [lumaGreenOk, s8_lumaGreenDelta, Bool.and_eq_true, decide_eq_true_eq]
  omega

@[simp] theorem lumaNibbleOk_lumaNibbleDelta (raw : BitVec 4) : lumaNibbleOk (lumaNibbleDelta raw) = true := by
  have raw_lt := raw.isLt
  simp only [lumaNibbleOk, s8_lumaNibbleDelta, Bool.and_eq_true, decide_eq_true_eq]
  omega

theorem runPayloadOk_tagPayload {t : Byte} (lo : 0xC0 ≤ t.toNat) (hi : t.toNat ≤ 0xFD) :
    runPayloadOk (tagPayload t) = true := by
  rw [runPayloadOk, tagPayload_toNat, decide_eq_true_eq]
  omega

theorem wellFormed_of_decodeWindow {w : Window} {i : Instr} (h : decodeWindow w = .ok i) : i.wellFormed = true := by
  cases decodeWindow_cases h with
  | endMarker hm e | rgb ht e | rgba ht e | index ht e => subst e; rfl
  | diff lo hi e => subst e; simp [Instr.wellFormed]
  | luma lo hi e => subst e; simp [Instr.wellFormed]
  | run lo hi e => subst e; exact runPayloadOk_tagPayload lo hi

/-- Settles O15: every window decodes, so the one fault a step raises is a failed refill's. -/
theorem everyWindowDecodes : Obligations.EveryWindowDecodes := by
  refine ⟨fun w => ?_, fun s t h hbad => ?_⟩
  · cases hw : decodeWindow w with
    | error r => exact absurd hw (decodeWindow_ne_error w r)
    | ok i => exact ⟨i, rfl, wellFormed_of_decodeWindow hw⟩
  · cases controlCase_of_step h with
    | kept _ _ _ _ hc _ | finished _ _ _ _ hc _ => exact hc.symm.trans hbad
    | reset _ _ _ hc _ | start _ _ _ hc _ | sourceFault _ _ _ _ _ _ hc _ => exact nomatch hc.symm.trans hbad

/-! ## The encoder's fields as numbers -/

theorem indexTag_toNat (i : Slot) : (indexTag i).toNat = i.toNat := by
  simp only [indexTag, toNat_append_eq_add]
  simp

theorem runTag_toNat (n : Slot) : (runTag n).toNat = 192 + n.toNat := by
  simp only [runTag, toNat_append_eq_add]
  simp

theorem diffTag_toNat (dr dg db : Byte) :
    (diffTag dr dg db).toNat =
      64 + (dr.toNat + 2) % 4 * 16 + (dg.toNat + 2) % 4 * 4 + (db.toNat + 2) % 4 := by
  simp only [diffTag, toNat_append_eq_add, BitVec.toNat_setWidth, BitVec.toNat_add, BitVec.ofNat_eq_ofNat,
    BitVec.toNat_ofNat]
  omega

theorem lumaTag_toNat (dg : Byte) : (lumaTag dg).toNat = 128 + (dg.toNat + 32) % 64 := by
  simp only [lumaTag, toNat_append_eq_add]
  simp

theorem lumaSecond_toNat (drdg dbdg : Byte) :
    (lumaSecond drdg dbdg).toNat = (drdg.toNat + 8) % 16 * 16 + (dbdg.toNat + 8) % 16 := by
  simp only [lumaSecond, toNat_append_eq_add]
  simp

/-! ## Encoding what a window decodes to -/

/-- Adding the bias back, in 8 bits and cut to the field's width, gives the field again. -/
theorem bias_setWidth_toNat_add {n : Nat} (hn : n ≤ 8) (k : Byte) (raw : BitVec n) :
    ((bias k (raw.setWidth 8)).toNat + k.toNat) % 2 ^ n = raw.toNat := by
  have cancel : bias k (raw.setWidth 8) + k = raw.setWidth 8 := BitVec.sub_add_cancel _ _
  calc ((bias k (raw.setWidth 8)).toNat + k.toNat) % 2 ^ n
      = (bias k (raw.setWidth 8) + k).toNat % 2 ^ n := by
        rw [BitVec.toNat_add, Nat.mod_mod_of_dvd _ (Nat.pow_dvd_pow 2 hn)]
    _ = raw.toNat := by
        rw [cancel, BitVec.toNat_setWidth_of_le hn, Nat.mod_eq_of_lt raw.isLt]

theorem diffDelta_toNat_add (raw : BitVec 2) : ((diffDelta raw).toNat + 2) % 4 = raw.toNat :=
  bias_setWidth_toNat_add (by decide) 2 raw

theorem lumaGreenDelta_toNat_add (raw : BitVec 6) : ((lumaGreenDelta raw).toNat + 32) % 64 = raw.toNat :=
  bias_setWidth_toNat_add (by decide) 32 raw

theorem lumaNibbleDelta_toNat_add (raw : BitVec 4) : ((lumaNibbleDelta raw).toNat + 8) % 16 = raw.toNat :=
  bias_setWidth_toNat_add (by decide) 8 raw

theorem indexTag_tagPayload {t : Byte} (ht : t.toNat ≤ 0x3F) : indexTag (tagPayload t) = t :=
  BitVec.eq_of_toNat_eq (by rw [indexTag_toNat, tagPayload_toNat]; omega)

theorem runTag_tagPayload {t : Byte} (lo : 0xC0 ≤ t.toNat) : runTag (tagPayload t) = t := by
  have t_lt := t.isLt
  exact BitVec.eq_of_toNat_eq (by rw [runTag_toNat, tagPayload_toNat]; omega)

theorem diffTag_diffDelta {t : Byte} (lo : 0x40 ≤ t.toNat) (hi : t.toNat ≤ 0x7F) :
    diffTag (diffDelta (diffRed t)) (diffDelta (diffGreen t)) (diffDelta (diffBlue t)) = t := by
  apply BitVec.eq_of_toNat_eq
  simp only [diffTag_toNat, diffDelta_toNat_add, diffRed_toNat, diffGreen_toNat, diffBlue_toNat]
  omega

theorem lumaTag_lumaGreenDelta {t : Byte} (lo : 0x80 ≤ t.toNat) (hi : t.toNat ≤ 0xBF) :
    lumaTag (lumaGreenDelta (tagPayload t)) = t := by
  apply BitVec.eq_of_toNat_eq
  rw [lumaTag_toNat, lumaGreenDelta_toNat_add, tagPayload_toNat]
  omega

theorem lumaSecond_lumaNibbleDelta (b : Byte) :
    lumaSecond (lumaNibbleDelta (lumaRed b)) (lumaNibbleDelta (lumaBlue b)) = b := by
  apply BitVec.eq_of_toNat_eq
  simp only [lumaSecond_toNat, lumaNibbleDelta_toNat_add, lumaRed_toNat, lumaBlue_toNat]
  omega

theorem window_toList (w : Window) : w.toList = [w[0], w[1], w[2], w[3], w[4], w[5], w[6], w[7]] := by
  obtain ⟨⟨bytes⟩, length_eq⟩ := w
  match bytes, length_eq with
  | [_, _, _, _, _, _, _, _], _ => rfl

/-- No bit of the chunk is dropped or invented: its encoding is the head of the window it was decoded from. -/
theorem encode_of_decodeWindow {w : Window} {i : Instr} (h : decodeWindow w = .ok i) :
    encode i = w.toList.take i.size.val := by
  cases decodeWindow_cases h with
  | endMarker hm e => rw [e, hm]; rfl
  | rgb ht e =>
    have tag : w[0] = 0xFE := BitVec.eq_of_toNat_eq ht
    rw [e, window_toList, tag]; rfl
  | rgba ht e =>
    have tag : w[0] = 0xFF := BitVec.eq_of_toNat_eq ht
    rw [e, window_toList, tag]; rfl
  | index ht e => rw [e, encode, indexTag_tagPayload ht, window_toList]; rfl
  | diff lo hi e => rw [e, encode, diffTag_diffDelta lo hi, window_toList]; rfl
  | luma lo hi e =>
    rw [e, encode, lumaTag_lumaGreenDelta lo hi, lumaSecond_lumaNibbleDelta, window_toList]; rfl
  | run lo hi e => rw [e, encode, runTag_tagPayload lo, window_toList]; rfl

end Sys2Proof.Machine
end

section
/-! PROOF. The assembler of spec/30_encoding.md R61: what each form assembles to, and that the form of an instruction
assembles to its encoding. -/

namespace Sys2Proof.Machine

open Sys2Proof

/-! ## The operands -/

/-- The model's signed reading is the library's. -/
theorem s8_eq_toInt (x : Byte) : s8 x = x.toInt := by
  have x_lt := x.isLt
  rw [s8_eq_ite, BitVec.toInt_eq_toNat_cond]
  split <;> split <;> omega

@[simp] theorem asmByte_toNat (x : Byte) : asmByte x.toNat = some x := by
  have x_lt := x.isLt
  rw [asmByte, if_pos (by omega), BitVec.ofInt_natCast, BitVec.ofNat_toNat, BitVec.setWidth_eq]

theorem asmDelta_s8 {lo hi : Int} {x : Byte} (hlo : lo ≤ s8 x) (hhi : s8 x ≤ hi) :
    asmDelta lo hi (s8 x) = some x := by
  rw [asmDelta, if_pos ⟨hlo, hhi⟩, s8_eq_toInt, BitVec.ofInt_toInt]

/-- The check of an operand moves out of the line: refused, it refuses the whole line. -/
theorem ite_none_bind {α β : Type} {p : Prop} [Decidable p] (x : α) (f : α → Option β) :
    ((if p then some x else none) >>= f) = if p then f x else none := by
  split <;> rfl

/-! ## The forms: within the operands' ranges the encoder's fields add up, each at its weight -/

theorem assemble_rgb (r g b : Int) : assemble (.rgb r g b) =
    if (0 ≤ r ∧ r ≤ 255) ∧ (0 ≤ g ∧ g ≤ 255) ∧ (0 ≤ b ∧ b ≤ 255)
    then some [0xFE, BitVec.ofInt 8 r, BitVec.ofInt 8 g, BitVec.ofInt 8 b] else none := by
  simp only [assemble, asmByte, ite_none_bind, ← ite_and]
  rfl

theorem assemble_rgba (r g b a : Int) : assemble (.rgba r g b a) =
    if (0 ≤ r ∧ r ≤ 255) ∧ (0 ≤ g ∧ g ≤ 255) ∧ (0 ≤ b ∧ b ≤ 255) ∧ (0 ≤ a ∧ a ≤ 255)
    then some [0xFF, BitVec.ofInt 8 r, BitVec.ofInt 8 g, BitVec.ofInt 8 b, BitVec.ofInt 8 a] else none := by
  simp only [assemble, asmByte, ite_none_bind, ← ite_and]
  rfl

theorem indexTag_ofInt {i : Int} (lo : 0 ≤ i) (hi : i ≤ 63) : indexTag (BitVec.ofInt 6 i) = BitVec.ofInt 8 i := by
  apply BitVec.eq_of_toNat_eq
  simp only [indexTag_toNat, BitVec.toNat_ofInt]
  omega

theorem runTag_ofInt {n : Int} (lo : 0 ≤ n) (hi : n ≤ 61) :
    runTag (BitVec.ofInt 6 n) = BitVec.ofInt 8 (192 + n) := by
  apply BitVec.eq_of_toNat_eq
  simp only [runTag_toNat, BitVec.toNat_ofInt]
  omega

theorem diffTag_ofInt {dr dg db : Int} (hr : -2 ≤ dr ∧ dr ≤ 1) (hg : -2 ≤ dg ∧ dg ≤ 1) (hb : -2 ≤ db ∧ db ≤ 1) :
    diffTag (BitVec.ofInt 8 dr) (BitVec.ofInt 8 dg) (BitVec.ofInt 8 db) =
      BitVec.ofInt 8 (64 + (dr + 2) * 16 + (dg + 2) * 4 + (db + 2)) := by
  apply BitVec.eq_of_toNat_eq
  simp only [diffTag_toNat, BitVec.toNat_ofInt]
  omega

theorem lumaTag_ofInt {dg : Int} (hg : -32 ≤ dg ∧ dg ≤ 31) :
    lumaTag (BitVec.ofInt 8 dg) = BitVec.ofInt 8 (128 + (dg + 32)) := by
  apply BitVec.eq_of_toNat_eq
  simp only [lumaTag_toNat, BitVec.toNat_ofInt]
  omega

theorem lumaSecond_ofInt {drdg dbdg : Int} (hr : -8 ≤ drdg ∧ drdg ≤ 7) (hb : -8 ≤ dbdg ∧ dbdg ≤ 7) :
    lumaSecond (BitVec.ofInt 8 drdg) (BitVec.ofInt 8 dbdg) = BitVec.ofInt 8 ((drdg + 8) * 16 + (dbdg + 8)) := by
  apply BitVec.eq_of_toNat_eq
  simp only [lumaSecond_toNat, BitVec.toNat_ofInt]
  omega

theorem assemble_index (i : Int) :
    assemble (.index i) = if 0 ≤ i ∧ i ≤ 63 then some [BitVec.ofInt 8 i] else none := by
  refine ite_congr rfl (fun ⟨lo, hi⟩ => ?_) (fun _ => rfl)
  rw [encode, indexTag_ofInt lo hi]

theorem assemble_run (len : Int) :
    assemble (.run len) = if 1 ≤ len ∧ len ≤ 62 then some [BitVec.ofInt 8 (192 + (len - 1))] else none := by
  refine ite_congr rfl (fun ⟨lo, hi⟩ => ?_) (fun _ => rfl)
  rw [encode, runTag_ofInt (by omega) (by omega)]

theorem assemble_diff (dr dg db : Int) : assemble (.diff dr dg db) =
    if (-2 ≤ dr ∧ dr ≤ 1) ∧ (-2 ≤ dg ∧ dg ≤ 1) ∧ (-2 ≤ db ∧ db ≤ 1)
    then some [BitVec.ofInt 8 (64 + (dr + 2) * 16 + (dg + 2) * 4 + (db + 2))] else none := by
  simp only [assemble, asmDelta, ite_none_bind, ← ite_and]
  refine ite_congr rfl (fun ⟨hr, hg, hb⟩ => ?_) (fun _ => rfl)
  rw [encode, diffTag_ofInt hr hg hb]
  rfl

theorem assemble_luma (dg drdg dbdg : Int) : assemble (.luma dg drdg dbdg) =
    if (-32 ≤ dg ∧ dg ≤ 31) ∧ (-8 ≤ drdg ∧ drdg ≤ 7) ∧ (-8 ≤ dbdg ∧ dbdg ≤ 7)
    then some [BitVec.ofInt 8 (128 + (dg + 32)), BitVec.ofInt 8 ((drdg + 8) * 16 + (dbdg + 8))] else none := by
  simp only [assemble, asmDelta, ite_none_bind, ← ite_and]
  refine ite_congr rfl (fun ⟨hg, hr, hb⟩ => ?_) (fun _ => rfl)
  rw [encode, lumaTag_ofInt hg, lumaSecond_ofInt hr hb]
  rfl

theorem assemble_bytes (xs : List Int) : assemble (.bytes xs) =
    if ∀ x ∈ xs, 0 ≤ x ∧ x ≤ 255 then some (xs.map (BitVec.ofInt 8)) else none := by
  rw [assemble]
  induction xs with
  | nil => rfl
  | cons x xs ih =>
    simp only [asmBytes, asmByte, ih, ite_none_bind, ← ite_and, List.forall_mem_cons]
    rfl

/-! ## The form of an instruction -/

/-- The form of a well-formed instruction has every operand in its range, so it is not refused, and the operand is read
back from its number. -/
theorem assemble_toAsm {i : Instr} (h : i.wellFormed = true) : assemble i.toAsm = some (encode i) := by
  cases i with
  | endMarker => rfl
  | rgb r g b => simp [Instr.toAsm, assemble]
  | rgba r g b a => simp [Instr.toAsm, assemble]
  | index i =>
    have i_lt := i.isLt
    rw [Instr.toAsm, assemble, if_pos (by omega), BitVec.ofInt_natCast, BitVec.ofNat_toNat, BitVec.setWidth_eq]
  | diff dr dg db =>
    simp only [Instr.wellFormed, diffDeltaOk, Bool.and_eq_true, decide_eq_true_eq] at h
    obtain ⟨⟨⟨hr, hr'⟩, hg, hg'⟩, hb, hb'⟩ := h
    simp [Instr.toAsm, assemble, asmDelta_s8, *]
  | luma dg drdg dbdg =>
    simp only [Instr.wellFormed, lumaGreenOk, lumaNibbleOk, Bool.and_eq_true, decide_eq_true_eq] at h
    obtain ⟨⟨⟨hg, hg'⟩, hr, hr'⟩, hb, hb'⟩ := h
    simp [Instr.toAsm, assemble, asmDelta_s8, *]
  | run n =>
    simp only [Instr.wellFormed, runPayloadOk, decide_eq_true_eq] at h
    rw [Instr.toAsm, assemble, if_pos (by omega), Int.add_sub_cancel, BitVec.ofInt_natCast, BitVec.ofNat_toNat,
      BitVec.setWidth_eq]

/-- Settles O22: each form by its own equation; a window's instruction is well-formed, so its form assembles to its
encoding, which is the head of the window. -/
theorem assemblerFollowsTheForms : Obligations.AssemblerFollowsTheForms :=
  ⟨assemble_rgb, assemble_rgba, assemble_index, assemble_diff, assemble_luma, assemble_run, rfl, assemble_bytes,
    fun _ => assemble_toAsm,
    fun _ _ h => by rw [assemble_toAsm (wellFormed_of_decodeWindow h), encode_of_decodeWindow h]⟩

end Sys2Proof.Machine
end

section
/-! PROOF. The refill of a window step, spec/40_step_and_window.md R63: what the source answers, what the refilled window
holds, and the fault when the read fails. -/

namespace Sys2Proof.Machine

open Sys2Proof

/-! ## What the source answers -/

theorem Source.read_of_supplies {src : Source} {n : Nat} (supplies : src.SuppliesNext) (enough : n ≤ src.bytes.length) :
    src.read n = .bytes (src.bytes.take n) ⟨src.bytes.drop n, src.answers.tail⟩ := by
  rcases src.read_cases n with ⟨-, -, e⟩ | ⟨-, fails | ⟨short, -⟩⟩ | ⟨-, waits⟩ | ⟨-, never⟩
  · exact e
  · simp_all [Source.SuppliesNext]
  · omega
  · simp_all [Source.SuppliesNext]
  · simp_all [Source.SuppliesNext]

theorem Source.read_of_short_or_fail {src : Source} {n : Nat}
    (h : (src.SuppliesNext ∧ src.bytes.length < n) ∨ src.answers.head? = some .fail) :
    src.read n = .srcFail ⟨src.bytes, src.answers.tail⟩ := by
  rcases src.read_cases n with ⟨enough, supplies, -⟩ | ⟨e, -⟩ | ⟨-, waits⟩ | ⟨-, never⟩
  · rcases h with ⟨-, short⟩ | fails
    · omega
    · simp_all
  · exact e
  · simp_all [Source.SuppliesNext]
  · simp_all [Source.SuppliesNext]

/-! ## The window -/

/-- The bytes of a stream's first `n` fill the end of the window in stream order. -/
theorem Window.refilled_take_get (w : Window) {n : Nat} {bs : List Byte} (enough : n ≤ bs.length) (i : Nat) (hi : i < 8) :
    (Window.refilled w n (bs.take n))[i] =
      if h : i + n < 8 then w[i + n] else bs[i + n - 8]'(by omega) := by
  rw [Window.refilled_get w n _ i hi, Window.refilledEntry]
  split
  · rfl
  · have fresh : i + n - 8 < (bs.take n).length := by rw [List.length_take]; omega
    rw [List.getD_eq_getElem _ _ fresh, List.getElem_take]

/-! ## The step -/

/-- The rule of an instruction completes and leaves the refilled window and the source alone. -/
theorem exec_win_source (i : Instr) (s : State) : ∃ t, exec i s = .next t ∧ t.win = s.win ∧ t.source = s.source := by
  rcases exec_cases i s with ⟨-, e⟩ | ⟨-, p, e⟩ | ⟨j, -, e⟩ | ⟨n, -, e⟩
  all_goals exact ⟨_, e, rfl, rfl⟩

/-- A window step whose read is answered runs the instruction its refilled window decodes to. -/
theorem step_of_read_bytes {s : State} {rest : List Input} {bs : List Byte} {src : Source} (d : WindowStepDue s rest)
    (hs : s.source.read s.refill.val = .bytes bs src) :
    ∃ i, decodeWindow (Window.refilled s.win s.refill.val bs) = .ok i ∧
      step s = exec i ((State.refillWindow bs src { s with inputs := rest }).setRefill i) := by
  cases hw : decodeWindow (Window.refilled s.win s.refill.val bs) with
  | error r => exact absurd hw (decodeWindow_ne_error _ r)
  | ok i => exact ⟨i, rfl, by simp [pullStep_window d, windowStep, hs, State.dispatch, hw]⟩

/-- The window and the source after a window step whose read is answered are those of the refill. -/
theorem win_source_of_read_bytes {s : State} {rest : List Input} {bs : List Byte} {src : Source}
    (d : WindowStepDue s rest) (hs : s.source.read s.refill.val = .bytes bs src) :
    ∃ t, step s = .next t ∧ t.win = Window.refilled s.win s.refill.val bs ∧ t.source = src := by
  obtain ⟨i, -, runs⟩ := step_of_read_bytes d hs
  obtain ⟨t, e, win, source⟩ := exec_win_source i ((State.refillWindow bs src { s with inputs := rest }).setRefill i)
  exact ⟨t, runs.trans e, by simpa using win, by simpa using source⟩

theorem step_of_read_srcFail {s : State} {rest : List Input} {src : Source} (d : WindowStepDue s rest)
    (hs : s.source.read s.refill.val = .srcFail src) : step s = .next (State.failRead src { s with inputs := rest }) := by
  simp [pullStep_window d, windowStep, hs]

/-- Settles O34: by what the source answers; no rule of an instruction touches the refilled window or the source, and a
failed read is the SOURCE_IO fault. -/
theorem refillShiftsWindow : Obligations.RefillShiftsWindow := by
  refine fun s rest d => ⟨fun supplies enough => ?_, fun fails => ?_⟩
  · obtain ⟨t, e, win, source⟩ := win_source_of_read_bytes d (Source.read_of_supplies supplies enough)
    refine ⟨t, e, by rw [source], fun i hi => ?_⟩
    simpa only [win] using Window.refilled_take_get s.win enough i hi
  · exact ⟨_, step_of_read_srcFail d (Source.read_of_short_or_fail fails), rfl, rfl, rfl⟩

end Sys2Proof.Machine
end

section
/-! PROOF. The color literals at a window step, spec/41_color_literals.md R69 and R70: the state a chunk's rule starts
from, what a chunk that produces a pixel makes of it, and the two literals as instances. -/

namespace Sys2Proof.Machine

open Sys2Proof

/-! ## The state an instruction's rule starts from -/

/-- The state in which a window step runs the instruction `i` its refilled window `w` decodes to (R62, R63, R65): the
flag cleared, the `PULL` taken, the refill done, and the chunk's size as the next count. -/
def State.dispatched (s : State) (rest : List Input) (w : Window) (src : Source) (i : Instr) : State :=
  { s with
    runActive := false
    win := w
    source := src
    pos := s.pos + s.refill.val
    inputs := rest
    refill := if i = .endMarker then s.refill else i.size }

theorem setRefill_refillWindow_eq_dispatched (s : State) (rest : List Input) (bs : List Byte) (src : Source)
    (i : Instr) :
    (State.refillWindow bs src { s with inputs := rest }).setRefill i =
      s.dispatched rest (Window.refilled s.win s.refill.val bs) src i := by
  cases i <;> rfl

theorem step_of_windowReady {s : State} {rest : List Input} {w : Window} {src : Source} {i : Instr}
    (ready : WindowReady s rest w src) (hw : decodeWindow w = .ok i) : step s = exec i (s.dispatched rest w src i) := by
  obtain ⟨bs, hs, rfl⟩ := ready.read
  obtain ⟨j, hj, runs⟩ := step_of_read_bytes ready.due hs
  obtain rfl : j = i := Except.ok.inj (hj.symm.trans hw)
  rw [runs, setRefill_refillWindow_eq_dispatched]

/-! ## A chunk that produces a pixel -/

/-- A window step whose chunk produces a pixel, made from `prev` by `pixelOf`, writes it to `prev`, its slot and the
response; all else is the refill's (R65, R68). -/
theorem step_of_produce {s : State} {rest : List Input} {w : Window} {src : Source} {i : Instr}
    {pixelOf : Pixel → Pixel} (ready : WindowReady s rest w src) (hw : decodeWindow w = .ok i)
    (chunk : i ≠ .endMarker) (produces : ∀ u : State, exec i u = .next (u.produce (pixelOf u.prev))) :
    ∃ t, step s = .next t ∧ t.prev = pixelOf s.prev ∧ t.response = some (.pixel t.prev) ∧
      CacheWritten s t t.prev ∧ t.refill.val = i.size.val ∧ t.runActive = false ∧ t.runRemaining = s.runRemaining ∧
      WindowStepFrame s rest w src t := by
  have runs : step s = .next ((s.dispatched rest w src i).produce (pixelOf s.prev)) :=
    (step_of_windowReady ready hw).trans (produces _)
  have count : (s.dispatched rest w src i).refill = i.size := if_neg chunk
  exact ⟨_, runs, rfl, rfl, produce_cacheWritten (s.dispatched rest w src i) _, congrArg Fin.val count, rfl, rfl,
    ⟨rfl, rfl, rfl, rfl, rfl, rfl, rfl⟩⟩

/-! ## The literals -/

/-- The marker's first byte is 0, so a window with any other tag is a chunk (R57). -/
theorem not_isEndMarker_of_tag_ne_zero {w : Window} (tag : w[0].toNat ≠ 0) : ¬ IsEndMarker w := by
  intro hm
  rw [isEndMarker_iff] at hm
  subst hm
  exact tag rfl

/-- Settles O36: the tag decodes to ColorRGB, which produces its literal with the old alpha. -/
theorem rgbChunkStep : Obligations.RgbChunkStep := by
  intro s rest w src ready tag
  have chunk : ¬ IsEndMarker w := not_isEndMarker_of_tag_ne_zero (by omega)
  exact step_of_produce (pixelOf := fun prev => rgbPixel prev w[1] w[2] w[3]) ready (decodeWindow_rgb chunk tag) nofun
    fun u => exec_rgb u _ _ _

/-- Settles O37: the tag decodes to ColorRGBA, which produces its literal whatever `prev` was. -/
theorem rgbaChunkStep : Obligations.RgbaChunkStep := by
  intro s rest w src ready tag
  have chunk : ¬ IsEndMarker w := not_isEndMarker_of_tag_ne_zero (by omega)
  exact step_of_produce (pixelOf := fun _ => rgbaPixel w[1] w[2] w[3] w[4]) ready (decodeWindow_rgba chunk tag) nofun
    fun u => exec_rgba u _ _ _ _

end Sys2Proof.Machine
end

section
/-! PROOF. The cache reference chunk at a window step, spec/42_index.md R71: the slot its tag names, and what the step
answers. -/

namespace Sys2Proof.Machine

open Sys2Proof

/-- Below 64 the payload of a tag is the tag, so the chunk reads the slot of that number (R50, R71). -/
theorem cacheRead_tagPayload (s : State) {t : Byte} (ht : t.toNat < 64) :
    s.cacheRead (tagPayload t) = s.cache[t.toNat] := by
  have slot : (tagPayload t).toNat = t.toNat := by rw [tagPayload_toNat, Nat.mod_eq_of_lt ht]
  simp only [State.cacheRead, slot]

/-- Settles O38: the tag decodes to Index, whose rule only reads the slot and emits its pixel; all else is the
refill's. -/
theorem indexChunkStep : Obligations.IndexChunkStep := by
  intro s rest w src ready chunk hi
  have decodes : decodeWindow w = .ok (.index (tagPayload w[0])) := decodeWindow_index chunk (by omega)
  have runs := (step_of_windowReady ready decodes).trans (exec_index _ _)
  exact ⟨_, runs, cacheRead_tagPayload s hi, rfl, rfl, rfl, rfl, rfl, ⟨rfl, rfl, rfl, rfl, rfl, rfl, rfl⟩⟩

end Sys2Proof.Machine
end

section
/-! PROOF. The delta chunks at a window step, spec/43_delta.md R72 and R73: the lanes of their pixels as numbers, and the
two chunks as instances of a chunk that produces a pixel. -/

namespace Sys2Proof.Machine

open Sys2Proof

/-! ## The lanes as numbers -/

/-- The two's-complement reading of a byte differs from the byte by a multiple of 256, so adding the `u8` modulo 256 adds
the signed delta (R10, R74). -/
theorem add8_toNat_eq_add_s8 (x d : Byte) : ((add8 x d).toNat : Int) = ((x.toNat : Int) + s8 d) % 256 := by
  rw [add8_toNat, s8_eq_ite]
  split <;> omega

/-! ## The chunks -/

/-- Settles O39: the tag decodes to Diff, whose pixel adds to each colour lane its own 2-bit field less 2. -/
theorem diffChunkStep : Obligations.DiffChunkStep := by
  intro s rest w src ready lo hi
  have chunk : ¬ IsEndMarker w := not_isEndMarker_of_tag_ne_zero (by omega)
  obtain ⟨t, runs, pixel, effects⟩ := step_of_produce
    (pixelOf := fun prev => diffPixel prev (diffDelta (diffRed w[0])) (diffDelta (diffGreen w[0]))
      (diffDelta (diffBlue w[0])))
    ready (decodeWindow_diff chunk lo hi) nofun fun u => exec_diff u _ _ _
  refine ⟨t, runs, ?red, ?green, ?blue, (congrArg Pixel.a pixel :), effects⟩
  all_goals simp only [pixel, diffPixel, add8_toNat_eq_add_s8, s8_diffDelta, diffRed_toNat, diffGreen_toNat,
    diffBlue_toNat]

/-- Settles O40: the tag decodes to Luma, whose pixel adds the tag's green delta to every colour lane, and to red and
blue the high and the low nibble of the second byte less 8; the two additions of a lane wrap as one. -/
theorem lumaChunkStep : Obligations.LumaChunkStep := by
  intro s rest w src ready lo hi
  have chunk : ¬ IsEndMarker w := not_isEndMarker_of_tag_ne_zero (by omega)
  obtain ⟨t, runs, pixel, effects⟩ := step_of_produce
    (pixelOf := fun prev => lumaPixel prev (lumaGreenDelta (tagPayload w[0])) (lumaNibbleDelta (lumaRed w[1]))
      (lumaNibbleDelta (lumaBlue w[1])))
    ready (decodeWindow_luma chunk lo hi) nofun fun u => exec_luma u _ _ _
  refine ⟨t, runs, ?red, ?green, ?blue, (congrArg Pixel.a pixel :), effects⟩
  all_goals simp only [pixel, lumaPixel, add8_toNat_eq_add_s8, Int.emod_add_emod, s8_lumaGreenDelta, s8_lumaNibbleDelta,
    tagPayload_toNat, lumaRed_toNat, lumaBlue_toNat]

end Sys2Proof.Machine
end

section
/-! PROOF. The run chunk and the run continuation, spec/44_run.md R76 and R77: the count one lower and the flag it leaves,
and the run flag after a window step that decodes anything else. -/

namespace Sys2Proof.Machine

open Sys2Proof

/-! ## The run chunk -/

/-- Settles O41: the tag decodes to Run, whose rule sets the count and the flag and emits `prev`; all else is the
refill's. -/
theorem runChunkStep : Obligations.RunChunkStep := by
  intro s rest w src ready lo hi
  have chunk : ¬ IsEndMarker w := not_isEndMarker_of_tag_ne_zero (by omega)
  have runs := (step_of_windowReady ready (decodeWindow_run chunk lo hi)).trans (exec_run _ _)
  exact ⟨_, runs, tagPayload_toNat w[0], rfl, rfl, rfl, rfl, rfl, ⟨rfl, rfl, rfl, rfl, rfl, rfl, rfl⟩⟩

/-! ## The continuation -/

theorem runPending_eq_true {s : State} : s.runPending = true ↔ s.runActive = true ∧ 0 < s.runRemaining.toNat := by
  simp [State.runPending]

theorem step_of_runPending {s : State} {rest : List Input} (pull : s.inputs = .pull :: rest)
    (streaming : s.phase = .streaming) (pending : s.runPending = true) :
    step s = .next ((State.countRun { s with inputs := rest }).respond (.pixel s.prev)) :=
  (step_pull pull).trans (pullStep_continuation rest streaming pending)

/-- A count above 0 falls by 1 with no wraparound. -/
theorem countRun_runRemaining_toNat {s : State} (positive : 0 < s.runRemaining.toNat) :
    s.countRun.runRemaining.toNat = s.runRemaining.toNat - 1 := by
  rw [State.countRun_runRemaining]
  bv_omega

/-- The last repetition clears the flag, and only it. -/
theorem countRun_runActive_iff {s : State} (active : s.runActive = true) (positive : 0 < s.runRemaining.toNat) :
    s.countRun.runActive = true ↔ 1 < s.runRemaining.toNat := by
  have last : s.runRemaining - 1 = 0 ↔ s.runRemaining.toNat = 1 := by bv_omega
  rw [State.countRun_runActive]
  by_cases one : s.runRemaining.toNat = 1
  · rw [if_pos (last.mpr one)]
    simp [one]
  · have more : 1 < s.runRemaining.toNat := by omega
    rw [if_neg (mt last.mp one)]
    exact iff_of_true active more

/-! ## The flag after any other window step -/

/-- Only the rule of a Run sets the run flag. -/
theorem exec_keeps_runActive {i : Instr} (noRun : ∀ n, i ≠ .run n) (s : State) :
    ∃ t, exec i s = .next t ∧ t.runActive = s.runActive := by
  rcases exec_cases i s with ⟨-, e⟩ | ⟨-, p, e⟩ | ⟨j, -, e⟩ | ⟨n, isRun, -⟩
  · exact ⟨_, e, rfl⟩
  · exact ⟨_, e, rfl⟩
  · exact ⟨_, e, rfl⟩
  · exact absurd isRun (noRun n)

/-- Settles O42: a pending run makes the step a continuation, which only counts down and emits `prev`; a window step
hands every instruction a cleared flag (R62), and none but Run sets it. -/
theorem runContinuationStep : Obligations.RunContinuationStep := by
  refine ⟨fun s rest pull streaming active positive => ?continuation, fun s rest w src ready noRun => ?window⟩
  case continuation =>
    have runs := step_of_runPending pull streaming (runPending_eq_true.mpr ⟨active, positive⟩)
    exact ⟨_, runs, countRun_runRemaining_toNat positive, countRun_runActive_iff active positive, rfl, rfl, rfl, rfl,
      rfl, rfl, rfl, rfl, rfl, rfl, rfl⟩
  case window =>
    cases decodes : decodeWindow w with
    | error r => exact absurd decodes (decodeWindow_ne_error w r)
    | ok i =>
      have notRun : ∀ n, i ≠ .run n := fun n isRun => noRun n (isRun ▸ decodes)
      obtain ⟨t, e, flag⟩ := exec_keeps_runActive notRun (s.dispatched rest w src i)
      exact ⟨t, (step_of_windowReady ready decodes).trans e, flag⟩

end Sys2Proof.Machine
end

section
/-! PROOF. The faults and the terminal phases of spec/60_exceptions.md: a `PULL` where no session streams (R83, R87), and
the faults a step raises (R80). -/

namespace Sys2Proof.Machine

open Sys2Proof

/-! ## A `PULL` outside STREAMING -/

/-- Settles O4: in IDLE the driver only takes the `PULL` and responds. -/
theorem pullInIdleRespondsNotStarted : Obligations.PullInIdleRespondsNotStarted :=
  fun _ rest pull idle => (step_pull pull).trans (pullStep_idle rest idle)

/-- Of the four transitions, the two that leave a phase other than STREAMING are those of `START` and `RESET`. -/
theorem initialises_of_phase_left {s t : State} (notStreaming : s.phase ≠ .streaming) (h : step s = .next t)
    (left : t.phase ≠ s.phase) : s.initialises := by
  rcases phase_change_cases h left with ⟨start, -⟩ | ⟨reset, -⟩ | ⟨-, streaming, -⟩ | ⟨-, streaming, -⟩
  · exact .inr start
  · exact .inl reset
  · exact absurd streaming notStreaming
  · exact absurd streaming notStreaming

/-- Settles O5: in a terminal phase the driver only takes the `PULL` and responds; ENDED and FAULTED are not STREAMING, so
only initialisation leaves them. -/
theorem terminalPullsRepeat : Obligations.TerminalPullsRepeat := by
  refine ⟨fun s rest pull ended => ?ended, fun s rest pull faulted => ?faulted, fun s t terminal h left => ?left⟩
  case ended => exact (step_pull pull).trans (pullStep_ended rest ended)
  case faulted => exact (step_pull pull).trans (pullStep_faulted rest faulted)
  case left =>
    have notStreaming : s.phase ≠ .streaming := by rcases terminal with hp | hp <;> simp [hp]
    exact initialises_of_phase_left notStreaming h left

/-! ## The faults a step raises -/

/-- A session faults by a failed refill and in no other way: every window decodes, so BAD_CHUNK is never raised (R58). -/
theorem sourceIo_of_fault_entered {s t : State} (streaming : s.phase = .streaming) (h : step s = .next t)
    (faulted : t.phase = .faulted) : t.cause = .sourceIo ∧ ∃ src, s.source.read s.refill.val = .srcFail src := by
  cases controlCase_of_step h with
  | reset hi hd hp hc hr => simp [hp] at faulted
  | start hi hd hp hc hr => simp [hp] at faulted
  | kept hreset hstart hd hp hc hr => simp [hp, streaming] at faulted
  | finished hi hs hd hp hc hr => simp [hp] at faulted
  | sourceFault src hi hs hread hd hp hc hr => exact ⟨hc, src, hread⟩

/-- Settles O45: a fault entered is always the failed refill's, and a failed refill always enters it. -/
theorem faultsRaisedByStep : Obligations.FaultsRaisedByStep := by
  refine ⟨fun s t streaming h faulted => .inl (sourceIo_of_fault_entered streaming h faulted), ?_⟩
  rintro s rest due ⟨src, fails⟩
  exact ⟨_, step_of_read_srcFail due fails, rfl, rfl, rfl⟩

end Sys2Proof.Machine
end

section
/-! PROOF. The commands `RESET` and `START`, spec/60_exceptions.md R97 and R98: each is one session initialisation, from
which the first `PULL` of a session is a window step that reads 8 bytes. -/

namespace Sys2Proof.Machine

open Sys2Proof

/-! ## The first `PULL` of a session -/

/-- No run is pending in the session-initial state, so a `PULL` in STREAMING is a window step (R62, stage 2). -/
theorem SessionInitial.windowStepDue {s : State} {rest : List Input} (initial : SessionInitial .streaming s)
    (pull : s.inputs = .pull :: rest) : WindowStepDue s rest where
  pull := pull
  streaming := initial.phase
  noRun := .inl initial.runActive

/-- What a due window step asks the source for is its refill count. -/
theorem WindowStepDue.sourceRequest_eq {s : State} {rest : List Input} (due : WindowStepDue s rest) :
    s.sourceRequest = some s.refill :=
  if_pos ⟨due.streaming, runPending_eq_false.mpr due.noRun⟩

/-! ## The commands -/

/-- Settles O2: the step initialises the session, which leaves the source and the later inputs alone. -/
theorem resetCommandInitialises : Obligations.ResetCommandInitialises :=
  fun _ _ reset => ⟨_, step_reset reset, initialise_sessionInitial .idle _, rfl, rfl, rfl⟩

/-- Settles O3: the step initialises the session, with no run pending and a refill count of 8 for the first `PULL`. -/
theorem startCommandBeginsSession : Obligations.StartCommandBeginsSession := by
  intro s rest start
  have initial := initialise_sessionInitial .streaming { s with inputs := rest }
  refine ⟨_, step_start start, initial, rfl, rfl, rfl, rfl, fun rest' pull => ?firstPull⟩
  case firstPull =>
    have due : WindowStepDue _ rest' := initial.windowStepDue pull
    exact ⟨due, due.sourceRequest_eq⟩

end Sys2Proof.Machine
end

section
/-! PROOF. The round trips of spec/30_encoding.md: a well-formed instruction's encoding decodes to it, what decodes is an
encoding, and the same through the host's table word. -/

namespace Sys2Proof.Machine

open Sys2Proof

/-! ## The window of a byte string -/

/-- The window is the first 8 bytes, and there is none if there are fewer (spec/70_reset_and_hazards.md R103). -/
theorem windowOf_eq_some_iff {bs : List Byte} {w : Window} : windowOf bs = some w ↔ w.toList = bs.take 8 := by
  unfold windowOf
  split
  case h_1 b0 b1 b2 b3 b4 b5 b6 b7 rest =>
    rw [Option.some_inj, eq_comm, ← Vector.toList_inj]
    rfl
  case h_2 short =>
    refine iff_of_false nofun fun h => ?_
    match bs, h.symm.trans (window_toList w) with
    | _ :: _ :: _ :: _ :: _ :: _ :: _ :: _ :: _, _ => exact short _ _ _ _ _ _ _ _ _ rfl

theorem exists_window_of_length {bs : List Byte} (full : 8 ≤ bs.length) : ∃ w : Window, w.toList = bs.take 8 :=
  ⟨⟨(bs.take 8).toArray, by simpa using full⟩, by simp [Vector.toList]⟩

/-- Decoding a byte string is decoding its window and dropping the instruction's size. -/
theorem decode_eq_ok_iff {bs rest : List Byte} {i : Instr} :
    decode bs = .ok (i, rest) ↔
      ∃ w : Window, w.toList = bs.take 8 ∧ decodeWindow w = .ok i ∧ rest = bs.drop i.size := by
  simp only [← windowOf_eq_some_iff, decode]
  cases windowOf bs with
  | none => simp
  | some w =>
    cases hw : decodeWindow w with
    | error r => simp [hw]
    | ok j => simpa [hw] using and_congr_right fun same => by rw [same, eq_comm]

/-- Settles O20: the instruction is spelled by the head of its window, which is the head of the byte string. -/
theorem encodeOfDecode : Obligations.EncodeOfDecode := by
  intro bs rest i h
  obtain ⟨w, first8, decodes, rfl⟩ := decode_eq_ok_iff.mp h
  refine ⟨wellFormed_of_decodeWindow decodes, ?_⟩
  have size_le : i.size.val ≤ 8 := by omega
  rw [encode_of_decodeWindow decodes, first8, List.take_take, Nat.min_eq_left size_le, List.take_append_drop]

/-! ## The encoder's fields decoded -/

theorem tagPayload_indexTag (i : Slot) : tagPayload (indexTag i) = i :=
  BitVec.eq_of_toNat_eq (by rw [tagPayload_toNat, indexTag_toNat]; omega)

theorem tagPayload_runTag (n : Slot) : tagPayload (runTag n) = n :=
  BitVec.eq_of_toNat_eq (by rw [tagPayload_toNat, runTag_toNat]; omega)

theorem s8_injective {x y : Byte} (h : s8 x = s8 y) : x = y :=
  BitVec.eq_of_toInt_eq (by rwa [s8_eq_toInt, s8_eq_toInt] at h)

/-- The 2-bit field of a delta in range is read back as that delta. -/
theorem diffDelta_of_field {raw : BitVec 2} {d : Byte} (ok : diffDeltaOk d = true)
    (field : raw.toNat = (d.toNat + 2) % 4) : diffDelta raw = d := by
  simp only [diffDeltaOk, Bool.and_eq_true, decide_eq_true_eq] at ok
  have sign := s8_eq_ite d
  exact s8_injective (by rw [s8_diffDelta]; split at sign <;> omega)

/-- The 6-bit field of a delta in range is read back as that delta. -/
theorem lumaGreenDelta_of_field {raw : BitVec 6} {d : Byte} (ok : lumaGreenOk d = true)
    (field : raw.toNat = (d.toNat + 32) % 64) : lumaGreenDelta raw = d := by
  simp only [lumaGreenOk, Bool.and_eq_true, decide_eq_true_eq] at ok
  have sign := s8_eq_ite d
  exact s8_injective (by rw [s8_lumaGreenDelta]; split at sign <;> omega)

/-- The 4-bit field of a delta in range is read back as that delta. -/
theorem lumaNibbleDelta_of_field {raw : BitVec 4} {d : Byte} (ok : lumaNibbleOk d = true)
    (field : raw.toNat = (d.toNat + 8) % 16) : lumaNibbleDelta raw = d := by
  simp only [lumaNibbleOk, Bool.and_eq_true, decide_eq_true_eq] at ok
  have sign := s8_eq_ite d
  exact s8_injective (by rw [s8_lumaNibbleDelta]; split at sign <;> omega)

/-! ## Decoding an encoding -/

/-- A window that starts with a well-formed instruction's encoding decodes to it, unless it spells the end marker by
chance: the tag is in the range of the instruction's kind (R48), and each field gives its operand back. -/
theorem decodeWindow_of_encode {w : Window} {i : Instr} {rest : List Byte} (ok : i.wellFormed = true)
    (starts : w.toList = encode i ++ rest) (noChance : i = .endMarker ∨ ¬ IsEndMarker w) :
    decodeWindow w = .ok i := by
  have entries := (window_toList w).symm.trans starts
  have chunk : i ≠ .endMarker → ¬ IsEndMarker w := noChance.resolve_left
  cases i with
  | endMarker =>
    have nothingElse : rest = [] := by simpa [encode] using congrArg List.length starts
    exact decodeWindow_endMarker (by rw [IsEndMarker, starts, nothingElse]; rfl)
  | rgb r g b =>
    obtain ⟨tag, rfl, rfl, rfl, -⟩ : w[0] = 0xFE ∧ w[1] = r ∧ w[2] = g ∧ w[3] = b ∧ _ := by
      simpa [encode] using entries
    exact decodeWindow_rgb (chunk nofun) (congrArg BitVec.toNat tag)
  | rgba r g b a =>
    obtain ⟨tag, rfl, rfl, rfl, rfl, -⟩ : w[0] = 0xFF ∧ w[1] = r ∧ w[2] = g ∧ w[3] = b ∧ w[4] = a ∧ _ := by
      simpa [encode] using entries
    exact decodeWindow_rgba (chunk nofun) (congrArg BitVec.toNat tag)
  | index slot =>
    obtain ⟨tag, -⟩ : w[0] = indexTag slot ∧ _ := by simpa [encode] using entries
    have value := (congrArg BitVec.toNat tag).trans (indexTag_toNat slot)
    rw [decodeWindow_index (chunk nofun) (by omega), tag, tagPayload_indexTag]
  | run n =>
    obtain ⟨tag, -⟩ : w[0] = runTag n ∧ _ := by simpa [encode] using entries
    have value := (congrArg BitVec.toNat tag).trans (runTag_toNat n)
    have inRange : n.toNat ≤ 61 := by simpa [Instr.wellFormed, runPayloadOk] using ok
    rw [decodeWindow_run (chunk nofun) (by omega) (by omega), tag, tagPayload_runTag]
  | diff dr dg db =>
    obtain ⟨tag, -⟩ : w[0] = diffTag dr dg db ∧ _ := by simpa [encode] using entries
    have value := (congrArg BitVec.toNat tag).trans (diffTag_toNat dr dg db)
    obtain ⟨⟨okr, okg⟩, okb⟩ : (_ ∧ _) ∧ _ := by simpa [Instr.wellFormed] using ok
    rw [decodeWindow_diff (chunk nofun) (by omega) (by omega),
      diffDelta_of_field okr (by rw [diffRed_toNat]; omega),
      diffDelta_of_field okg (by rw [diffGreen_toNat]; omega),
      diffDelta_of_field okb (by rw [diffBlue_toNat]; omega)]
  | luma dg drdg dbdg =>
    obtain ⟨tag, second, -⟩ : w[0] = lumaTag dg ∧ w[1] = lumaSecond drdg dbdg ∧ _ := by simpa [encode] using entries
    have value := (congrArg BitVec.toNat tag).trans (lumaTag_toNat dg)
    have nibbles := (congrArg BitVec.toNat second).trans (lumaSecond_toNat drdg dbdg)
    obtain ⟨⟨okg, okr⟩, okb⟩ : (_ ∧ _) ∧ _ := by simpa [Instr.wellFormed] using ok
    rw [decodeWindow_luma (chunk nofun) (by omega) (by omega),
      lumaGreenDelta_of_field okg (by rw [tagPayload_toNat]; omega),
      lumaNibbleDelta_of_field okr (by rw [lumaRed_toNat]; omega),
      lumaNibbleDelta_of_field okb (by rw [lumaBlue_toNat]; omega)]

theorem length_encode (i : Instr) : (encode i).length = i.size.val := by
  cases i <;> rfl

/-- Settles O19: the first 8 bytes are a window that starts with the encoding, and the encoding's length is the size the
decoder drops. -/
theorem decodeOfEncode : Obligations.DecodeOfEncode := by
  intro i tail ok full noChance
  obtain ⟨w, first8⟩ := exists_window_of_length full
  have size_le : (encode i).length ≤ 8 := by have := length_encode i; omega
  have starts : w.toList = encode i ++ tail.take (8 - (encode i).length) := by
    rw [first8, List.take_append, List.take_of_length_le size_le]
  have noMarker : i = .endMarker ∨ ¬ IsEndMarker w :=
    noChance.imp_right fun differs marker => differs (first8.symm.trans marker)
  refine decode_eq_ok_iff.mpr ⟨w, first8, decodeWindow_of_encode ok starts noMarker, ?rest⟩
  case rest => rw [← length_encode, List.drop_left]

/-! ## The table word -/

/-- Bytes as digits: the number has no more of them than the string. -/
theorem littleEndian_lt (bs : List Byte) : littleEndian bs < 256 ^ bs.length := by
  induction bs with
  | nil => simp [littleEndian]
  | cons b bs ih =>
    have b_lt := b.isLt
    simp only [littleEndian, List.length_cons, Nat.pow_succ]
    omega

/-- Byte `j` of the number is byte `j` of the string, and 0 past its end. -/
theorem littleEndian_div_mod (bs : List Byte) (j : Nat) :
    littleEndian bs / 256 ^ j % 256 = (bs.getD j 0).toNat := by
  induction bs generalizing j with
  | nil => simp [littleEndian]
  | cons b bs ih =>
    have b_lt := b.isLt
    cases j with
    | zero => simp [littleEndian]; omega
    | succ j =>
      have shift : (b.toNat + 256 * littleEndian bs) / 256 = littleEndian bs := by omega
      rw [littleEndian, Nat.pow_succ', ← Nat.div_div_eq_div_mul, shift, ih, List.getD_cons_succ]

theorem tableByte_littleEndian (bs : List Byte) (j : Nat) :
    tableByte (8 * bs.length) (littleEndian bs) j = bs.getD j 0 := by
  have lt := littleEndian_lt bs
  have base (n : Nat) : 2 ^ (8 * n) = 256 ^ n := Nat.pow_mul 2 8 n
  apply BitVec.eq_of_toNat_eq
  rw [tableByte, base, base, Nat.mod_eq_of_lt lt, BitVec.toNat_ofNat, ← littleEndian_div_mod]

/-- A table word of at most 8 bytes arrives as these bytes, filled up with zeros. -/
theorem tableBytes_littleEndian {bs : List Byte} (short : bs.length ≤ 8) :
    tableBytes (8 * bs.length) (littleEndian bs) = bs ++ List.replicate (8 - bs.length) 0 := by
  simp only [tableBytes, tableByte_littleEndian]
  match bs, short with
  | [], _ | [_], _ | [_, _], _ | [_, _, _], _ | [_, _, _, _], _ | [_, _, _, _, _], _ | [_, _, _, _, _, _], _
  | [_, _, _, _, _, _, _], _ | [_, _, _, _, _, _, _, _], _ => rfl

/-- A chunk of at most 5 bytes filled up with zeros does not spell the marker, whose eighth byte is 1. -/
theorem encode_append_zeros_ne_endMarker {i : Instr} (chunk : i ≠ .endMarker) :
    (encode i ++ List.replicate (8 - (encode i).length) 0).take 8 ≠ encode .endMarker := by
  cases i with
  | endMarker => exact absurd rfl chunk
  | rgb | rgba | index | diff | luma | run => simp [encode, List.replicate]

/-- Settles O21: the word's bytes are the encoding and zeros, which do not spell the end marker. -/
theorem tableWordDecodes : Obligations.TableWordDecodes := by
  intro i ok
  have size_le : (encode i).length ≤ 8 := by have := length_encode i; omega
  have bytes := tableBytes_littleEndian size_le
  have decodes := decodeOfEncode i (List.replicate (8 - (encode i).length) 0) ok (by simp; omega)
    (or_iff_not_imp_left.mpr encode_append_zeros_ne_endMarker)
  rw [decodeTableWord, ← length_encode, bytes, decodes]

/-! ## What a chunk is decoded from -/

/-- R47: the tag fixes the length. -/
theorem size_of_decodeWindow {w : Window} {i : Instr} (chunk : ¬ IsEndMarker w) (h : decodeWindow w = .ok i) :
    i.size = (classify w[0]).size := by
  rw [decodeWindow_of_not_endMarker chunk, decodeChunk] at h
  split at h
  case h_7 => exact nomatch h
  all_goals
    rename_i kind
    obtain rfl := Except.ok.inj h
    rw [kind, Instr.size]

/-- Settles O17: the size is the kind's, which the tag gives; the operands are read from the first five bytes. -/
theorem chunkFixedByTagAndFourBytes : Obligations.ChunkFixedByTagAndFourBytes := by
  intro v w i j chunkV chunkW tag decodesV decodesW
  refine ⟨?size, fun b1 b2 b3 b4 => ?same⟩
  case size => rw [size_of_decodeWindow chunkV decodesV, size_of_decodeWindow chunkW decodesW, tag]
  case same =>
    rw [decodeWindow_of_not_endMarker chunkV, decodeChunk, tag, b1, b2, b3, b4, ← decodeChunk,
      ← decodeWindow_of_not_endMarker chunkW, decodesW] at decodesV
    exact (Except.ok.inj decodesV).symm

/-- Settles O18: each window evaluates, END by the whole window and a chunk by its tag. -/
theorem writtenOutWordsDecode : Obligations.WrittenOutWordsDecode :=
  ⟨rfl, rfl, rfl, rfl, rfl, rfl, rfl⟩

end Sys2Proof.Machine
end

section
/-! PROOF. The invariant of spec/10_state.md R25 and spec/20_memory.md R40, and the writers of the run state and of `prev`
it rests on (R17 to R19). -/

namespace Sys2Proof.Machine

open Sys2Proof

/-! ## What the rule of an instruction leaves alone -/

/-- No rule of an instruction touches the window, the refill count, the ghost, the source, the inputs or the counter of free
values. -/
theorem exec_frame {i : Instr} {s t : State} (h : exec i s = .next t) :
    t.win = s.win ∧ t.refill = s.refill ∧ t.pos = s.pos ∧ t.source = s.source ∧ t.inputs = s.inputs ∧
      t.freeIndex = s.freeIndex := by
  rcases exec_cases i s with ⟨-, e⟩ | ⟨-, p, e⟩ | ⟨j, -, e⟩ | ⟨n, -, e⟩
  all_goals
    obtain rfl := Host.Outcome.next.inj (e.symm.trans h)
    exact ⟨rfl, rfl, rfl, rfl, rfl, rfl⟩

/-- Only the rule of a Run writes the run flag and counter (R18, R19). -/
theorem exec_run_state {i : Instr} {s t : State} (h : exec i s = .next t) :
    (∃ n, i = .run n ∧ t.runActive = true ∧ t.runRemaining = n) ∨
    ((∀ n, i ≠ .run n) ∧ t.runActive = s.runActive ∧ t.runRemaining = s.runRemaining) := by
  cases i with
  | run n =>
    obtain rfl := Host.Outcome.next.inj h
    exact .inl ⟨n, rfl, rfl, rfl⟩
  | endMarker | rgb r g b | rgba r g b a | index j | diff dr dg db | luma dg drdg dbdg =>
    obtain rfl := Host.Outcome.next.inj h
    exact .inr ⟨nofun, rfl, rfl⟩

/-- A Run and END keep `prev`; any other rule answers with the new `prev`, whose alpha is the old one's unless the rule is
ColorRGBA's or Index's (R17). -/
theorem exec_prev_cases {i : Instr} {s t : State} (h : exec i s = .next t) :
    t.prev = s.prev ∨
    ((i ≠ .endMarker ∧ ∀ n, i ≠ .run n) ∧ t.response = some (.pixel t.prev) ∧
      (t.prev.a = s.prev.a ∨ (∃ r g b a, i = .rgba r g b a) ∨ ∃ j, i = .index j)) := by
  cases i with
  | endMarker | run n =>
    obtain rfl := Host.Outcome.next.inj h
    exact .inl rfl
  | rgb r g b | diff dr dg db | luma dg drdg dbdg =>
    obtain rfl := Host.Outcome.next.inj h
    exact .inr ⟨⟨nofun, nofun⟩, rfl, .inl rfl⟩
  | rgba r g b a =>
    obtain rfl := Host.Outcome.next.inj h
    exact .inr ⟨⟨nofun, nofun⟩, rfl, .inr (.inl ⟨r, g, b, a, rfl⟩)⟩
  | index j =>
    obtain rfl := Host.Outcome.next.inj h
    exact .inr ⟨⟨nofun, nofun⟩, rfl, .inr (.inr ⟨j, rfl⟩)⟩

theorem chunkAt_of_decoded {s : State} {rest : List Input} {bs : List Byte} {src : Source} {i : Instr}
    (d : WindowStepDue s rest) (hs : s.source.read s.refill.val = .bytes bs src)
    (hw : decodeWindow (Window.refilled s.win s.refill.val bs) = .ok i) : s.chunkAt = some i := by
  rw [chunkAt_of_bytes d hs, hw]
  rfl

/-- What a step decodes is well-formed, as every window's instruction is (R50). -/
theorem wellFormed_of_chunkAt {s : State} {i : Instr} (hd : s.chunkAt = some i) : i.wellFormed = true := by
  by_contra illFormed
  have undecoded : s.chunkAt = none := chunkAt_eq_none fun rest bs src d hs => illFormed <| by
    obtain ⟨j, decodes, -⟩ := step_of_read_bytes d hs
    obtain rfl : j = i := Option.some.inj ((chunkAt_of_decoded d hs decodes).symm.trans hd)
    exact wellFormed_of_decodeWindow decodes
  exact nomatch hd.symm.trans undecoded

/-! ## The run state after a step -/

theorem not_initialises_of_pull {s : State} {rest : List Input} (pull : s.inputs = .pull :: rest) : ¬ s.initialises := by
  simp [State.initialises, pull]

/-- What a step does to the run flag and counter. -/
inductive RunStateCase (s t : State) : Prop where
  | initialised (init : s.initialises) (flag : t.runActive = false) (count : t.runRemaining = 0)
  /-- A continuation. -/
  | continued (pull : s.inputs = .pull :: t.inputs) (streaming : s.phase = .streaming) (pending : s.runPending = true)
      (flag : t.runActive = s.countRun.runActive) (count : t.runRemaining = s.countRun.runRemaining)
  /-- A window step that decodes a Run. -/
  | began (n : Slot) (pull : s.inputs = .pull :: t.inputs) (streaming : s.phase = .streaming)
      (notPending : s.runPending = false) (isRun : s.chunkAt = some (.run n)) (flag : t.runActive = true)
      (count : t.runRemaining = n)
  /-- Any other completed window step. -/
  | cleared (pull : s.inputs = .pull :: t.inputs) (streaming : s.phase = .streaming)
      (notPending : s.runPending = false) (noRun : ∀ n, s.chunkAt ≠ some (.run n)) (flag : t.runActive = false)
      (count : t.runRemaining = s.runRemaining)
  | kept (noInit : ¬ s.initialises)
      (noPull : s.inputs.head? ≠ some .pull ∨ s.phase ≠ .streaming ∨ t.inputs = s.inputs)
      (flag : t.runActive = s.runActive) (count : t.runRemaining = s.runRemaining)

theorem runStateCase_of_step {s t : State} (h : step s = .next t) : RunStateCase s t := by
  cases step_cases h with
  | reset rest hi e =>
    subst e
    exact .initialised (.inl (by simp [hi])) rfl rfl
  | start rest hi e =>
    subst e
    exact .initialised (.inr (by simp [hi])) rfl rfl
  | idle hi e | attach src rest hi e =>
    subst e
    exact .kept (by simp [State.initialises, hi]) (.inl (by simp [hi])) rfl rfl
  | notStarted rest hi hp e | afterEnd rest hi hp e | afterFault rest hi hp e =>
    subst e
    exact .kept (not_initialises_of_pull hi) (.inr (.inl (by simp [hp]))) rfl rfl
  | continuation rest hi hp hr e =>
    subst e
    exact .continued hi hp hr rfl rfl
  | readFailed rest src d hs e =>
    subst e
    exact .cleared d.pull d.streaming (runPending_eq_false.mpr d.noRun) (by simp [chunkAt_of_no_bytes, hs]) rfl rfl
  | readWaiting rest src d hs e =>
    subst e
    exact .kept (not_initialises_of_pull d.pull) (.inr (.inr rfl)) rfl rfl
  | undecodable rest bs src r d hs hw e => exact absurd hw (decodeWindow_ne_error _ r)
  | decoded rest bs src i d hs hw e =>
    have hd := chunkAt_of_decoded d hs hw
    obtain ⟨-, -, -, -, inputs, -⟩ := exec_frame e
    have pull : s.inputs = .pull :: t.inputs := by rw [inputs, d.pull]; simp
    rcases exec_run_state e with ⟨n, rfl, flag, count⟩ | ⟨noRun, flag, count⟩
    · exact .began n pull d.streaming (runPending_eq_false.mpr d.noRun) hd flag count
    · exact .cleared pull d.streaming (runPending_eq_false.mpr d.noRun) (by simpa [hd] using noRun) (by simpa using flag)
        (by simpa using count)

/-- Settles O53: a completed `PULL` in STREAMING is a continuation, a Run's window step or another's; any other step
initialises the run state or keeps it. -/
theorem runFlagAndCounterWriters : Obligations.RunFlagAndCounterWriters := by
  refine ⟨fun s t rest pull streaming h taken => ?completed, fun s t h init => ?initialised,
    fun s t h noInit noPull => ?kept⟩
  case completed =>
    cases runStateCase_of_step h with
    | initialised init => exact absurd init (not_initialises_of_pull pull)
    | continued _ _ pending flag count =>
      obtain ⟨active, positive⟩ := runPending_eq_true.mp pending
      have noChunk := chunkAt_of_runPending pending
      rw [flag, count, countRun_runActive_iff active positive, countRun_runRemaining_toNat positive]
      simp [noChunk, active, pending]
    | began n _ _ notPending isRun flag count => simp [isRun, flag, count]
    | cleared _ _ notPending noRun flag count =>
      have noneLeft : s.runActive = true → ¬ 1 < s.runRemaining.toNat := by
        rcases runPending_eq_false.mp notPending with inactive | zero <;> simp [*]
      simpa [flag, count, noRun, notPending] using noneLeft
    | kept noInit noPull =>
      rcases noPull with other | other | waits
      · simp [pull] at other
      · exact absurd streaming other
      · simp [taken, pull] at waits
  case initialised =>
    cases runStateCase_of_step h with
    | initialised _ flag count => exact ⟨flag, count⟩
    | continued pull | began _ pull | cleared pull => exact absurd init (not_initialises_of_pull pull)
    | kept noInit => exact absurd init noInit
  case kept =>
    cases runStateCase_of_step h with
    | initialised init => exact absurd init noInit
    | continued pull streaming | began _ pull streaming | cleared pull streaming =>
      simp [pull, streaming] at noPull
    | kept _ _ flag count => exact ⟨flag, count⟩

/-! ## Who writes `prev` -/

/-- Settles O52: only the rule of a decoded instruction writes `prev` beside initialisation, and of the rules neither a Run's
nor END's. -/
theorem prevAndAlphaWriters : Obligations.PrevAndAlphaWriters := by
  intro s t h noInit
  rcases prev_cache_of_step h with ⟨-, init | ⟨same, -⟩⟩ | ⟨i, u, hd, he, uprev, -⟩
  · exact absurd init noInit
  · exact ⟨fun changed => absurd same changed, fun changed => absurd (by rw [same]) changed⟩
  · rcases exec_prev_cases he with same | ⟨⟨noEnd, noRun⟩, response, alpha⟩
    · exact ⟨fun changed => absurd (same.trans uprev) changed, fun changed => absurd (by rw [same, uprev]) changed⟩
    · refine ⟨fun _ => ⟨response, i, hd, noEnd, noRun⟩, fun changed => ?_⟩
      rcases alpha with same | ⟨r, g, b, a, rfl⟩ | ⟨j, rfl⟩
      · exact absurd (by rw [same, uprev]) changed
      · exact .inl ⟨r, g, b, a, hd⟩
      · exact .inr ⟨j, hd⟩

/-! ## The invariant -/

theorem sessionInitial_of_initialises {s t : State} (init : s.initialises) (h : step s = .next t) :
    SessionInitial .idle t ∨ SessionInitial .streaming t :=
  init.imp (sessionInitial_of_step_reset · h) (sessionInitial_of_step_start · h)

theorem SessionInitial.inv {p : Phase} {s : State} (initial : SessionInitial p s) (noFault : p ≠ .faulted) : s.Inv where
  runCount := by simp [initial.runRemaining]
  refillSize := by simp [initial.refill]
  causeOfFault := by simp [initial.cause, initial.phase, noFault]
  slots := fun j => .inl (initial.cache j)

/-- Settles O11: the reset value is session-initial, with phase IDLE. -/
theorem invariantHoldsAtReset : Obligations.InvariantHoldsAtReset :=
  reset_sessionInitial.inv nofun

/-- A Run decoded by a step has a payload of at most 61, and a continuation only counts down. -/
theorem runCount_of_step {s t : State} (h : step s = .next t) (bound : s.runRemaining.toNat ≤ 61) :
    t.runRemaining.toNat ≤ 61 := by
  cases runStateCase_of_step h with
  | initialised _ _ count => simp [count]
  | continued _ _ pending _ count =>
    rw [count, countRun_runRemaining_toNat (runPending_eq_true.mp pending).2]
    omega
  | began n _ _ _ isRun _ count =>
    rw [count]
    simpa [Instr.wellFormed, runPayloadOk] using wellFormed_of_chunkAt isRun
  | cleared _ _ _ _ _ count | kept _ _ _ count => rwa [count]

/-- The refill count is written by session initialisation and by the dispatch of a chunk only (R65). -/
theorem refill_of_step {s t : State} (h : step s = .next t) :
    s.initialises ∨ t.refill = s.refill ∨ ∃ i, i ≠ .endMarker ∧ s.chunkAt = some i ∧ t.refill = i.size := by
  cases step_cases h with
  | reset rest hi e => exact .inl (.inl (by simp [hi]))
  | start rest hi e => exact .inl (.inr (by simp [hi]))
  | idle hi e | attach src rest hi e | notStarted rest hi hp e | afterEnd rest hi hp e | afterFault rest hi hp e
  | continuation rest hi hp hr e | readFailed rest src d hs e | readWaiting rest src d hs e =>
    subst e
    exact .inr (.inl rfl)
  | undecodable rest bs src r d hs hw e => exact absurd hw (decodeWindow_ne_error _ r)
  | decoded rest bs src i d hs hw e =>
    obtain ⟨-, refill, -⟩ := exec_frame e
    by_cases isEnd : i = .endMarker
    · subst isEnd
      exact .inr (.inl (by simpa using refill))
    · exact .inr (.inr ⟨i, isEnd, chunkAt_of_decoded d hs hw, refill.trans (State.setRefill_refill _ _ isEnd)⟩)

theorem size_of_chunk {i : Instr} (chunk : i ≠ .endMarker) :
    i.size.val = 1 ∨ i.size.val = 2 ∨ i.size.val = 4 ∨ i.size.val = 5 := by
  cases i with
  | endMarker => exact absurd rfl chunk
  | rgb | rgba | index | diff | luma | run => simp [Instr.size, Kind.size]

/-- A slot written holds a pixel of its own slot number. -/
theorem slots_of_cacheWritten {s t : State} {p : Pixel} (written : CacheWritten s t p) (j : Fin 64)
    (slot : s.cache[j] = .zero ∨ slotNumber s.cache[j] = j.val) :
    t.cache[j] = .zero ∨ slotNumber t.cache[j] = j.val := by
  rw [written j]
  split
  case isTrue own => exact .inr own.symm
  case isFalse => exact slot

/-- Settles O12: a step that initialises the session makes it hold; of the others, each part is kept by what can write it. -/
theorem invariantKeptByEveryStep : Obligations.InvariantKeptByEveryStep := by
  intro s t inv h
  by_cases init : s.initialises
  · rcases sessionInitial_of_initialises init h with initial | initial
    · exact initial.inv nofun
    · exact initial.inv nofun
  refine ⟨runCount_of_step h inv.runCount, ?refillSize, ?causeOfFault, fun j => ?slots⟩
  case refillSize =>
    rcases refill_of_step h with init' | same | ⟨i, chunk, -, size⟩
    · exact absurd init' init
    · rw [same]
      exact inv.refillSize
    · rw [size]
      have := size_of_chunk chunk
      omega
  case causeOfFault =>
    cases controlCase_of_step h with
    | reset hi => exact absurd (.inl hi) init
    | start hi => exact absurd (.inr hi) init
    | kept _ _ _ hp hc _ =>
      rw [hp, hc]
      exact inv.causeOfFault
    | finished _ hs _ hp hc _ =>
      have noCause : s.cause = .none := inv.causeOfFault.mpr (by simp [hs])
      simp [hp, hc, noCause]
    | sourceFault _ _ _ _ _ hp hc _ => simp [hp, hc]
  case slots =>
    rcases cache_cases_of_step h with ⟨-, written, -⟩ | ⟨-, init' | same⟩
    · exact slots_of_cacheWritten written j (inv.slots j)
    · exact absurd init' init
    · rw [same]
      exact inv.slots j

end Sys2Proof.Machine
end

section
/-! PROOF. One step: its outputs and responses (spec/60_exceptions.md R79, R81, R85), the end-marker check
(spec/40_step_and_window.md R64), and what the source's answers do to it (spec/20_memory.md R28, R29;
spec/70_reset_and_hazards.md R109). -/

namespace Sys2Proof.Machine

open Sys2Proof

/-! ## The level outputs -/

theorem status_phase (s : State) : s.status.toNat % 4 = s.phase.code.toNat :=
  (status_fields s).1

theorem ended_iff (s : State) : s.ended = true ↔ s.phase = .ended :=
  decide_eq_true_iff

theorem faulted_iff (s : State) : s.faulted = true ↔ s.phase = .faulted :=
  decide_eq_true_iff

/-- Settles O10: the outputs are the phase, whose code STATUS holds; a step that clears one leaves a phase other than
STREAMING. -/
theorem levelOutputsFollowPhase : Obligations.LevelOutputsFollowPhase := by
  refine ⟨fun s => ⟨ended_iff s, faulted_iff s, ?endedCode, ?faultedCode⟩, fun s t h cleared => ?cleared⟩
  case endedCode => rw [ended_iff, status_phase]; cases s.phase <;> simp [Phase.code]
  case faultedCode => rw [faulted_iff, status_phase]; cases s.phase <;> simp [Phase.code]
  case cleared =>
    rcases cleared with ⟨before, after⟩ | ⟨before, after⟩
    · rw [ended_iff] at before
      have left : t.phase ≠ .ended := by simpa [State.ended] using after
      exact initialises_of_phase_left (by simp [before]) h (by rwa [before])
    · rw [faulted_iff] at before
      have left : t.phase ≠ .faulted := by simpa [State.faulted] using after
      exact initialises_of_phase_left (by simp [before]) h (by rwa [before])

/-! ## The decoded instruction and the end marker -/

/-- Settles O32: the dispatched state is the one the statement writes out. -/
theorem stepRunsDecodedInstruction : Obligations.StepRunsDecodedInstruction :=
  fun _ _ _ _ _ ready decodes => step_of_windowReady ready decodes

/-- A chunk's rule completes, answers with a pixel and stays in the phase. -/
theorem exec_chunk_pixel {i : Instr} (chunk : i ≠ .endMarker) (s : State) :
    ∃ t p, exec i s = .next t ∧ t.response = some (.pixel p) ∧ t.phase = s.phase := by
  obtain ⟨t, e, -, -⟩ := exec_win_source i s
  obtain ⟨phase, -, p, response⟩ := exec_chunk_control chunk e
  exact ⟨t, p, e, response, phase⟩

/-- Settles O35: the check is the decoder's, before the tag; a continuation does not reach the decoder. -/
theorem endMarkerStep : Obligations.EndMarkerStep := by
  refine ⟨fun s rest w src ready marker => ?marker, fun s rest w src ready noMarker => ?chunk,
    fun s rest pull streaming pending => ?continuation⟩
  case marker =>
    have runs := (step_of_windowReady ready (decodeWindow_endMarker marker)).trans (exec_endMarker _)
    exact ⟨_, runs, rfl, rfl, rfl, rfl, rfl, rfl, rfl, rfl, rfl, rfl, rfl, rfl⟩
  case chunk =>
    cases decodes : decodeWindow w with
    | error r => exact absurd decodes (decodeWindow_ne_error w r)
    | ok i =>
      have chunk : i ≠ .endMarker := fun isEnd => noMarker ((decodeWindow_eq_endMarker_iff w).mp (isEnd ▸ decodes))
      obtain ⟨t, p, e, response, phase⟩ := exec_chunk_pixel chunk (s.dispatched rest w src i)
      exact ⟨t, p, (step_of_windowReady ready decodes).trans e, response, phase.trans ready.due.streaming⟩
  case continuation => exact ⟨_, step_of_runPending pull streaming pending, rfl, streaming⟩

/-! ## A placed table word -/

theorem decodeTableWord_eq_some_iff {nbits w : Nat} {i : Instr} :
    decodeTableWord nbits w = some i ↔ ∃ v : Window, v.toList = tableBytes nbits w ∧ decodeWindow v = .ok i := by
  have eight : (tableBytes nbits w).take 8 = tableBytes nbits w := rfl
  rw [← eight]
  simp only [← windowOf_eq_some_iff, decodeTableWord, decode]
  cases windowOf (tableBytes nbits w) with
  | none => simp
  | some v => cases hv : decodeWindow v <;> simp [hv]

/-- The 8 placed bytes are supplied to the next step's refill, which replaces the whole window. -/
theorem placeBytes_windowReady {bs : List Byte} {v : Window} (eight : v.toList = bs) (s : State) :
    WindowReady (s.placeBytes bs) s.inputs v s.source where
  due := ⟨rfl, rfl, .inl rfl⟩
  read := by
    have length : bs.length = 8 := by rw [← eight, Vector.length_toList]
    refine ⟨bs, ?supplied, Vector.toList_inj.mp ?window⟩
    case supplied =>
      refine (Source.read_of_supplies (.inr rfl) (by simp [length])).trans ?_
      simp [length]
    case window =>
      refine Eq.trans ?_ (Window.refilled_toList s.win 8 bs le_rfl length).symm
      simp [eight]

theorem chunkAt_of_windowReady {s : State} {rest : List Input} {w : Window} {src : Source} {i : Instr}
    (ready : WindowReady s rest w src) (decodes : decodeWindow w = .ok i) : s.chunkAt = some i := by
  obtain ⟨bs, read, rfl⟩ := ready.read
  exact chunkAt_of_decoded ready.due read decodes

/-- Settles O33: the word's bytes are the refilled window of the next step, which runs what they decode to. -/
theorem placedWordRunsNext : Obligations.PlacedWordRunsNext := by
  intro s nbits w i h
  obtain ⟨v, bytes, decodes⟩ := decodeTableWord_eq_some_iff.mp h
  have ready : WindowReady (s.withFetchWord nbits w) s.inputs v s.source := placeBytes_windowReady bytes s
  obtain ⟨t, e, -, -⟩ := exec_win_source i ((s.withFetchWord nbits w).dispatched s.inputs v s.source i)
  exact ⟨chunkAt_of_windowReady ready decodes, t, _, (step_of_windowReady ready decodes).trans e, e, rfl, rfl, bytes,
    rfl, rfl⟩

/-! ## One response for each `PULL` -/

/-- Settles O44: by how the step came about; a chunk answers with a pixel, END with End, and a waiting read not at all. -/
theorem oneResponseForEachPull : Obligations.OneResponseForEachPull := by
  intro s t rest pull h
  have only {rest' : List Input} (pull' : s.inputs = .pull :: rest') : rest' = rest :=
    (List.cons.inj (pull'.symm.trans pull)).2
  cases step_cases h with
  | idle hi | reset _ hi | start _ hi | attach _ _ hi => simp [pull] at hi
  | notStarted _ hi hp e =>
    obtain rfl := only hi
    subst e
    exact .inl ⟨rfl, .inl ⟨hp, rfl⟩⟩
  | afterEnd _ hi hp e =>
    obtain rfl := only hi
    subst e
    exact .inl ⟨rfl, .inr (.inr (.inl ⟨hp, rfl⟩))⟩
  | afterFault _ hi hp e =>
    obtain rfl := only hi
    subst e
    exact .inl ⟨rfl, .inr (.inr (.inr ⟨hp, rfl⟩))⟩
  | continuation _ hi hp hr e =>
    obtain rfl := only hi
    subst e
    exact .inl ⟨rfl, .inr (.inl ⟨hp, hp, _, rfl⟩)⟩
  | readFailed _ src d hs e =>
    obtain rfl := only d.pull
    subst e
    exact .inl ⟨rfl, .inr (.inr (.inr ⟨rfl, rfl⟩))⟩
  | readWaiting rest' src d hs e =>
    subst e
    exact .inr ⟨rfl, rfl, src, hs⟩
  | undecodable rest' bs src r d hs hw e => exact absurd hw (decodeWindow_ne_error _ r)
  | decoded rest' bs src i d hs hw e =>
    obtain rfl := only d.pull
    obtain ⟨-, -, -, -, inputs, -⟩ := exec_frame e
    refine .inl ⟨by simpa using inputs, ?_⟩
    by_cases isEnd : i = .endMarker
    · subst isEnd
      obtain rfl := Host.Outcome.next.inj e
      exact .inr (.inr (.inl ⟨rfl, rfl⟩))
    · obtain ⟨phase, -, pixel⟩ := exec_chunk_control isEnd e
      have stays : t.phase = .streaming := phase.trans (by simp [d.streaming])
      exact .inr (.inl ⟨d.streaming, stays, pixel⟩)

/-! ## Entering a fault -/

/-- A fault is entered by one step only: a window step whose read fails (R81). -/
theorem failRead_of_fault_entered {s t : State} (streaming : s.phase = .streaming) (h : step s = .next t)
    (faulted : t.phase = .faulted) : ∃ rest src, t = State.failRead src { s with inputs := rest } := by
  cases step_cases h with
  | readFailed rest src d hs e => exact ⟨rest, src, e⟩
  | undecodable rest bs src r d hs hw e => exact absurd hw (decodeWindow_ne_error _ r)
  | notStarted rest hi hp | afterEnd rest hi hp | afterFault rest hi hp => simp [streaming] at hp
  | idle hi e | reset rest hi e | start rest hi e | attach src rest hi e | continuation rest hi hp hr e
  | readWaiting rest src d hs e =>
    subst e
    simp [streaming] at faulted
  | decoded rest bs src i d hs hw e =>
    by_cases isEnd : i = .endMarker
    · subst isEnd
      obtain rfl := Host.Outcome.next.inj e
      exact nomatch faulted
    · obtain ⟨phase, -, -⟩ := exec_chunk_control isEnd e
      simp [phase, streaming] at faulted

/-- Settles O46: the fault is entered by the failed read; in FAULTED a `PULL` only responds; and the free value is cut to
the range of the read. -/
theorem faultEntryKeepsDecoderState : Obligations.FaultEntryKeepsDecoderState := by
  refine ⟨fun s t streaming h faulted => ?entered, fun s t rest faulted pull h => ?after,
    fun s rest src due fails => ?taken⟩
  case entered =>
    obtain ⟨rest, src, rfl⟩ := failRead_of_fault_entered streaming h faulted
    exact ⟨rfl, nofun, rfl, rfl, rfl, rfl, rfl⟩
  case after =>
    obtain rfl := Host.Outcome.next.inj (((step_pull pull).trans (pullStep_faulted rest faulted)).symm.trans h)
    exact ⟨rfl, rfl, rfl⟩
  case taken =>
    have whole : src.bytes = s.source.bytes := (Source.read_srcFail fails).1
    exact ⟨_, _, step_of_read_srcFail due fails, (takenByFailure_le ..).1, by rw [State.failRead_source, whole], rfl,
      rfl, rfl⟩

/-! ## A source that does not answer -/

theorem Source.read_of_wait {src : Source} (waits : src.answers.head? = some .wait) (n : Nat) :
    src.read n = .waiting ⟨src.bytes, src.answers.tail⟩ := by
  obtain ⟨as, answers⟩ := List.head?_eq_some_iff.mp waits
  simp [Source.read, answers]

theorem Source.read_of_never {src : Source} (never : src.answers.head? = some .never) (n : Nat) :
    src.read n = .noAnswer := by
  obtain ⟨as, answers⟩ := List.head?_eq_some_iff.mp never
  simp [Source.read, answers]

theorem step_of_read_waiting {s : State} {rest : List Input} {src : Source} (d : WindowStepDue s rest)
    (hs : s.source.read s.refill.val = .waiting src) : step s = .next { s with source := src, response := none } := by
  simp [pullStep_window d, windowStep, hs]

theorem step_of_read_noAnswer {s : State} {rest : List Input} (d : WindowStepDue s rest)
    (hs : s.source.read s.refill.val = .noAnswer) : step s = .fault .sourceNeverAnswers := by
  simp [pullStep_window d, windowStep, hs]

/-- Settles O47: by the answer of the read. -/
theorem unansweredReadHoldsState : Obligations.UnansweredReadHoldsState := by
  refine ⟨fun s rest due waits => ?waiting, fun s rest due never => ?never⟩
  case waiting => exact step_of_read_waiting due (Source.read_of_wait waits _)
  case never => exact step_of_read_noAnswer due (Source.read_of_never never _)

/-- Settles O6: both steps by the input taken. -/
theorem blockHoldsStateBetweenCommands : Obligations.BlockHoldsStateBetweenCommands :=
  ⟨fun _ none => step_nil none, fun _ _ _ attach => step_attach attach⟩

/-- A step answers a next state, unless it is a window step whose read is never answered (R109). -/
theorem step_next_or_never (s : State) : (∃ t, step s = .next t) ∨
    (step s = .fault .sourceNeverAnswers ∧ s.source.answers.head? = some .never ∧ ∃ rest, WindowStepDue s rest) := by
  match hi : s.inputs with
  | [] => exact .inl ⟨_, step_nil hi⟩
  | .reset :: rest => exact .inl ⟨_, step_reset hi⟩
  | .start :: rest => exact .inl ⟨_, step_start hi⟩
  | .attach src :: rest => exact .inl ⟨_, step_attach hi⟩
  | .pull :: rest =>
    match hp : s.phase with
    | .idle => exact .inl ⟨_, (step_pull hi).trans (pullStep_idle rest hp)⟩
    | .ended => exact .inl ⟨_, (step_pull hi).trans (pullStep_ended rest hp)⟩
    | .faulted => exact .inl ⟨_, (step_pull hi).trans (pullStep_faulted rest hp)⟩
    | .streaming =>
      cases hr : s.runPending with
      | true => exact .inl ⟨_, step_of_runPending hi hp hr⟩
      | false =>
        have due : WindowStepDue s rest := ⟨hi, hp, runPending_eq_false.mp hr⟩
        rcases s.source.read_cases s.refill.val with ⟨-, -, hs⟩ | ⟨hs, -⟩ | ⟨hs, -⟩ | ⟨hs, never⟩
        · obtain ⟨t, e, -⟩ := win_source_of_read_bytes due hs
          exact .inl ⟨t, e⟩
        · exact .inl ⟨_, step_of_read_srcFail due hs⟩
        · exact .inl ⟨_, step_of_read_waiting due hs⟩
        · exact .inr ⟨step_of_read_noAnswer due hs, never, rest, due⟩

theorem sourcesAnswer_iff (s : State) :
    s.sourcesAnswer = true ↔
      .never ∉ s.source.answers ∧ ∀ src, .attach src ∈ s.inputs → .never ∉ src.answers := by
  have duty (src : Source) : src.answering = true ↔ .never ∉ src.answers := by simp [Source.answering]
  simp only [State.sourcesAnswer, Bool.and_eq_true, List.all_eq_true, duty]
  refine and_congr_right fun _ => ⟨fun all src mem => (duty src).mp (all _ mem), fun all input mem => ?_⟩
  cases input with
  | attach src => exact (duty src).mpr (all src mem)
  | reset | start | pull => rfl

/-- A step only uses up inputs, and its source is the old one with some answers used up, or one that was handed over. -/
theorem inputs_source_of_step {s t : State} (h : step s = .next t) :
    t.inputs <:+ s.inputs ∧
      (t.source.answers <:+ s.source.answers ∨ ∃ src, .attach src ∈ s.inputs ∧ t.source = src) := by
  cases step_cases h with
  | idle hi e =>
    subst e
    exact ⟨List.suffix_rfl, .inl List.suffix_rfl⟩
  | reset rest hi e | start rest hi e | notStarted rest hi hp e | afterEnd rest hi hp e | afterFault rest hi hp e
  | continuation rest hi hp hr e =>
    subst e
    exact ⟨hi ▸ List.suffix_cons _ _, .inl List.suffix_rfl⟩
  | attach src rest hi e =>
    subst e
    exact ⟨hi ▸ List.suffix_cons _ _, .inr ⟨src, by simp [hi], rfl⟩⟩
  | readFailed rest src d hs e =>
    subst e
    refine ⟨d.pull ▸ List.suffix_cons _ _, .inl ?_⟩
    rw [State.failRead_source, (Source.read_srcFail hs).2]
    exact List.tail_suffix _
  | readWaiting rest src d hs e =>
    subst e
    exact ⟨List.suffix_rfl, .inl ((Source.read_waiting hs).2 ▸ List.tail_suffix _)⟩
  | undecodable rest bs src r d hs hw e => exact absurd hw (decodeWindow_ne_error _ r)
  | decoded rest bs src i d hs hw e =>
    obtain ⟨-, -, -, source, inputs, -⟩ := exec_frame e
    obtain ⟨-, -, -, -, answers⟩ := Source.read_bytes hs
    refine ⟨by rw [inputs, d.pull]; simp, .inl ?_⟩
    rw [source, State.setRefill_source, State.refillWindow_source, answers]
    exact List.tail_suffix _

/-- Settles O48: by the step's input, phase and answer; what answers every read does so with some answers used up too. -/
theorem answeredStepsNeverStop : Obligations.AnsweredStepsNeverStop := by
  refine ⟨step_next_or_never, fun s answer => ?_⟩
  obtain ⟨present, coming⟩ := (sourcesAnswer_iff s).mp answer
  rcases step_next_or_never s with ⟨t, h⟩ | ⟨-, never, -⟩
  · obtain ⟨inputs, source⟩ := inputs_source_of_step h
    refine ⟨t, h, (sourcesAnswer_iff t).mpr ⟨?_, fun src mem => coming src (inputs.subset mem)⟩⟩
    rcases source with answers | ⟨src, mem, rfl⟩
    · exact fun mem => present (answers.subset mem)
    · exact coming _ mem
  · exact absurd (List.mem_of_mem_head? never) present

end Sys2Proof.Machine
end

section
/-! PROOF. Noninterference of the unread bytes with one step, spec/20_memory.md R28 and R29. -/

namespace Sys2Proof.Machine

open Sys2Proof

/-- A read of as many bytes as `xs` has answers alike whatever bytes follow `xs`. -/
theorem Source.read_append_cases (xs : List Byte) (answers : List Answer) :
    (∀ ys, Source.read ⟨xs ++ ys, answers⟩ xs.length = .bytes xs ⟨ys, answers.tail⟩) ∨
    (∀ ys, Source.read ⟨xs ++ ys, answers⟩ xs.length = .srcFail ⟨xs ++ ys, answers.tail⟩) ∨
    (∀ ys, Source.read ⟨xs ++ ys, answers⟩ xs.length = .waiting ⟨xs ++ ys, answers.tail⟩) ∨
    (∀ ys, Source.read ⟨xs ++ ys, answers⟩ xs.length = .noAnswer) := by
  match answers with
  | [] | .supply :: as => exact .inl fun ys => by simp [Source.read, Source.supply]
  | .fail :: as => exact .inr (.inl fun ys => rfl)
  | .wait :: as => exact .inr (.inr (.inl fun ys => rfl))
  | .never :: as => exact .inr (.inr (.inr fun ys => rfl))

/-- Where at least the bytes asked for remain, how many a failed read takes does not depend on how many there are. -/
theorem takenByFailure_of_le {n avail : Nat} (enough : n ≤ avail) (k : Nat) :
    takenByFailure k n avail = Config.freeTaken k % (n + 1) := by
  rw [takenByFailure, Nat.min_eq_left enough]

/-- The rule of an instruction does not look at the source. -/
theorem exec_withSource {i : Instr} {s t : State} (h : exec i s = .next t) (src : Source) :
    exec i { s with source := src } = .next { t with source := src } := by
  cases i with
  | endMarker | rgb r g b | rgba r g b a | index j | diff dr dg db | luma dg drdg dbdg | run n =>
    obtain rfl := Host.Outcome.next.inj h
    rfl

/-- The two states differ in nothing but the bytes of the source. -/
def DifferInSourceBytes (t u : State) : Prop :=
  t = { u with source := t.source } ∧ t.source.answers = u.source.answers

/-- A step that is no window step does not look at the source. -/
theorem step_withSource_of_no_window {s t : State} (noWindow : ∀ rest, ¬ WindowStepDue s rest) (h : step s = .next t)
    {src : Source} (answers : s.source.answers = src.answers) :
    ∃ u, step { s with source := src } = .next u ∧ DifferInSourceBytes t u := by
  cases step_cases h with
  | idle hi e =>
    subst e
    exact ⟨_, step_nil hi, rfl, answers⟩
  | reset rest hi e =>
    subst e
    exact ⟨_, step_reset hi, rfl, answers⟩
  | start rest hi e =>
    subst e
    exact ⟨_, step_start hi, rfl, answers⟩
  | attach src' rest hi e =>
    subst e
    exact ⟨_, step_attach hi, rfl, rfl⟩
  | notStarted rest hi hp e =>
    subst e
    exact ⟨_, pullInIdleRespondsNotStarted { s with source := src } rest hi hp, rfl, answers⟩
  | afterEnd rest hi hp e =>
    subst e
    exact ⟨_, terminalPullsRepeat.1 { s with source := src } rest hi hp, rfl, answers⟩
  | afterFault rest hi hp e =>
    subst e
    exact ⟨_, terminalPullsRepeat.2.1 { s with source := src } rest hi hp, rfl, answers⟩
  | continuation rest hi hp hr e =>
    subst e
    exact ⟨_, step_of_runPending hi hp hr, rfl, answers⟩
  | readFailed rest src' d | readWaiting rest src' d | undecodable rest bs src' r d | decoded rest bs src' i d =>
    exact absurd d (noWindow rest)

/-- A window step looks at no byte past those its refill asks for. -/
theorem step_append_of_window {s t : State} {rest : List Input} {xs ys : List Byte} {answers : List Answer}
    (length : xs.length = s.refill.val) (due : ∀ bs, WindowStepDue { s with source := ⟨xs ++ bs, answers⟩ } rest)
    (h : step { s with source := ⟨xs ++ ys, answers⟩ } = .next t) (zs : List Byte) :
    ∃ u, step { s with source := ⟨xs ++ zs, answers⟩ } = .next u ∧ DifferInSourceBytes t u := by
  have reads := Source.read_append_cases xs answers
  rw [length] at reads
  rcases reads with read | read | read | read
  · have ready (bs : List Byte) : WindowReady { s with source := ⟨xs ++ bs, answers⟩ } rest
        (Window.refilled s.win s.refill.val xs) ⟨bs, answers.tail⟩ := ⟨due bs, xs, read bs, rfl⟩
    cases decodes : decodeWindow (Window.refilled s.win s.refill.val xs) with
    | error r => exact absurd decodes (decodeWindow_ne_error _ r)
    | ok i =>
      rw [step_of_windowReady (ready ys) decodes] at h
      rw [step_of_windowReady (ready zs) decodes]
      exact ⟨_, exec_withSource h ⟨zs, answers.tail⟩, rfl, (congrArg Source.answers (exec_source_pos h).1 :)⟩
  · have taken (bs : List Byte) : takenByFailure s.freeIndex s.refill.val (xs ++ bs).length =
        Config.freeTaken s.freeIndex % (s.refill.val + 1) := takenByFailure_of_le (by simp [length]) _
    obtain rfl := Host.Outcome.next.inj ((step_of_read_srcFail (due ys) (read ys)).symm.trans h)
    exact ⟨_, step_of_read_srcFail (due zs) (read zs), by simp only [State.failRead, State.raiseFault, taken], rfl⟩
  · obtain rfl := Host.Outcome.next.inj ((step_of_read_waiting (due ys) (read ys)).symm.trans h)
    exact ⟨_, step_of_read_waiting (due zs) (read zs), rfl, rfl⟩
  · exact nomatch (step_of_read_noAnswer (due ys) (read ys)).symm.trans h

/-- Settles O50: a step that is no window step does not look at the source, and a window step only at its refill's
bytes. -/
theorem stepIgnoresUnreadBytes : Obligations.StepIgnoresUnreadBytes := by
  intro s xs ys zs answers t length h
  by_cases due : ∃ rest, WindowStepDue { s with source := ⟨xs ++ ys, answers⟩ } rest
  · obtain ⟨rest, due⟩ := due
    exact step_append_of_window length (fun _ => ⟨due.pull, due.streaming, due.noRun⟩) h zs
  · exact step_withSource_of_no_window (not_exists.mp due) h rfl

end Sys2Proof.Machine
end

section
/-! PROOF. Whole sessions: the pixels of a Run (spec/44_run.md R78), what a session takes from its source
(spec/20_memory.md R31), and how long it lasts (spec/40_step_and_window.md R67). -/

namespace Sys2Proof.Machine

open Sys2Proof

/-! ## A Run and its continuations -/

/-- `t` is `s` but for the run state, the inputs taken and the response. -/
def DiffersInRunState (s t : State) : Prop :=
  t = { s with inputs := t.inputs, runActive := t.runActive, runRemaining := t.runRemaining, response := t.response }

/-- `n` continuations of a run of count `n`: a pixel `prev` each, and nothing but the run state changes (R77). -/
theorem run_continuations {n : Nat} {s : State} {rest : List Input} (inputs : s.inputs = List.replicate n .pull ++ rest)
    (streaming : s.phase = .streaming) (active : n ≠ 0 → s.runActive = true) (count : s.runRemaining.toNat = n) :
    responsesIn n s = List.replicate n (.pixel s.prev) ∧
    ∃ t : State, Host.Core.run Sys2Proof.core n s = .next t ∧ DiffersInRunState s t ∧ t.inputs = rest ∧
      t.runRemaining.toNat = 0 := by
  induction n generalizing s with
  | zero => exact ⟨rfl, s, rfl, rfl, inputs, count⟩
  | succ n ih =>
    have positive : 0 < s.runRemaining.toNat := by omega
    have runs := step_of_runPending (rest := List.replicate n .pull ++ rest) inputs streaming
      (runPending_eq_true.mpr ⟨active nofun, positive⟩)
    have countsDown := countRun_runRemaining_toNat positive
    have staysActive := (countRun_runActive_iff (active nofun) positive).mpr
    obtain ⟨responses, t, run, frame, taken, done⟩ := ih (s := (State.countRun { s with inputs := _ }).respond _)
      rfl streaming (fun more => staysActive (by omega)) (countsDown.trans (by omega))
    refine ⟨?_, t, (run_of_step n runs).trans run, frame, taken, done⟩
    rw [responsesIn_of_step n runs, responses]
    rfl

/-- A Run of payload `n` and its `n` continuations: `n + 1` pixels `prev` for one refill, and the state is that of the
Run's window step but for the run state (R78). -/
theorem run_chunk {s : State} {n : Slot} {rest : List Input} {w : Window} {src : Source}
    (ready : WindowReady s (List.replicate n.toNat .pull ++ rest) w src) (decodes : decodeWindow w = .ok (.run n)) :
    responsesIn (n.toNat + 1) s = List.replicate (n.toNat + 1) (.pixel s.prev) ∧
    ∃ t : State, Host.Core.run Sys2Proof.core (n.toNat + 1) s = .next t ∧ t.prev = s.prev ∧ t.cache = s.cache ∧
      t.refill.val = 1 ∧ t.runRemaining.toNat = 0 ∧ WindowStepFrame s rest w src t := by
  have begins := (step_of_windowReady ready decodes).trans (exec_run _ _)
  obtain ⟨responses, t, run, frame, taken, done⟩ := run_continuations (n := n.toNat) (rest := rest)
    (s := ((s.dispatched _ w src (.run n)).setRun n).respond _) rfl ready.due.streaming (fun _ => rfl) rfl
  refine ⟨?_, t, (run_of_step _ begins).trans run, (congrArg State.prev frame :), (congrArg State.cache frame :),
    (congrArg (Fin.val ∘ State.refill) frame :), done, ?frame⟩
  case frame =>
    exact ⟨(congrArg State.phase frame :), (congrArg State.cause frame :), (congrArg State.win frame :),
      (congrArg State.source frame :), (congrArg State.pos frame :), taken, (congrArg State.freeIndex frame :)⟩
  rw [responsesIn_of_step _ begins, responses]
  rfl

/-- Settles O43: the Run is decoded once, and its count is that of the continuations. -/
theorem runChunkGivesAllItsPixels : Obligations.RunChunkGivesAllItsPixels := by
  rintro s n rest w src ready lo hi rfl
  have chunk : ¬ IsEndMarker w := not_isEndMarker_of_tag_ne_zero (by omega)
  rw [← tagPayload_toNat w[0]] at ready ⊢
  obtain ⟨responses, t, run, prev, cache, refill, done, frame⟩ := run_chunk ready (decodeWindow_run chunk lo hi)
  exact ⟨responses, t, run, prev, cache, frame.source, frame.win, refill, frame.pos,
    frame.phase.trans ready.due.streaming, frame.inputs, .inr done⟩

/-! ## Runs of pulls -/

/-- Every input still to come is a `PULL`. -/
def State.PullsOnly (s : State) : Prop := ∀ input ∈ s.inputs, input = .pull

theorem pullsOnly_of_replicate {s : State} {k : Nat} (inputs : s.inputs = List.replicate k .pull) : s.PullsOnly :=
  fun _ mem => List.eq_of_mem_replicate (inputs ▸ mem)

theorem State.PullsOnly.step {s t : State} (pulls : s.PullsOnly) (h : step s = .next t) : t.PullsOnly :=
  fun input mem => pulls input ((inputs_source_of_step h).1.subset mem)

theorem State.PullsOnly.not_initialises {s : State} (pulls : s.PullsOnly) : ¬ s.initialises := by
  rintro (reset | start)
  · exact nomatch pulls _ (List.mem_of_mem_head? reset)
  · exact nomatch pulls _ (List.mem_of_mem_head? start)

/-- What every step keeps, a run keeps. -/
theorem run_induction {P : State → Prop} (kept : ∀ {s t : State}, P s → step s = .next t → P t) {k : Nat} {s t : State}
    (holds : P s) (run : Host.Core.run Sys2Proof.core k s = .next t) : P t := by
  induction k generalizing s with
  | zero => exact Host.Outcome.next.inj run ▸ holds
  | succ k ih =>
    obtain ⟨u, h, run⟩ := step_of_run run
    exact ih (kept holds h) run

/-- With no command but `PULL` a phase other than STREAMING is never left. -/
theorem phase_of_run {k : Nat} {s t : State} (pulls : s.PullsOnly) (notStreaming : s.phase ≠ .streaming)
    (run : Host.Core.run Sys2Proof.core k s = .next t) : t.phase = s.phase := by
  refine (run_induction (P := fun u => u.PullsOnly ∧ u.phase = s.phase) ?kept ⟨pulls, rfl⟩ run).2
  case kept =>
    rintro u v ⟨pulls, phase⟩ h
    by_contra left
    have stays : v.phase = u.phase := by
      by_contra changed
      exact pulls.not_initialises (initialises_of_phase_left (phase ▸ notStreaming) h changed)
    exact left ⟨pulls.step h, stays.trans phase⟩

/-- A session never returns to IDLE by itself. -/
theorem not_idle_of_run {k : Nat} {s t : State} (pulls : s.PullsOnly) (notIdle : s.phase ≠ .idle)
    (run : Host.Core.run Sys2Proof.core k s = .next t) : t.phase ≠ .idle := by
  refine (run_induction (P := fun u => u.PullsOnly ∧ u.phase ≠ .idle) ?kept ⟨pulls, notIdle⟩ run).2
  case kept =>
    rintro u v ⟨pulls, notIdle⟩ h
    refine ⟨pulls.step h, fun idle => ?_⟩
    rcases phase_change_cases h (by rw [idle]; exact notIdle.symm) with ⟨-, p⟩ | ⟨reset, -⟩ | ⟨-, -, p, -⟩ | ⟨-, -, p, -⟩
    · exact nomatch idle.symm.trans p
    · exact pulls.not_initialises (.inl reset)
    · exact nomatch idle.symm.trans p
    · exact nomatch idle.symm.trans p

theorem run_of_sourcesAnswer (k : Nat) {s : State} (answer : s.sourcesAnswer = true) :
    ∃ t : State, Host.Core.run Sys2Proof.core k s = .next t := by
  induction k generalizing s with
  | zero => exact ⟨s, rfl⟩
  | succ k ih =>
    obtain ⟨u, h, answer⟩ := answeredStepsNeverStop.2 s answer
    obtain ⟨t, run⟩ := ih answer
    exact ⟨t, (run_of_step k h).trans run⟩

/-! ## What a session takes from its source -/

/-- The bytes the window steps that decode `chunks` take, the first with the given refill count: the refill of each later
one is the size of the chunk before it (R65). -/
def bytesTaken (refill : Nat) (chunks : List Instr) : Nat := (refill :: chunks.map (·.size.val)).dropLast.sum

@[simp] theorem bytesTaken_nil (refill : Nat) : bytesTaken refill [] = 0 := rfl

@[simp] theorem bytesTaken_cons (refill : Nat) (i : Instr) (chunks : List Instr) :
    bytesTaken refill (i :: chunks) = refill + bytesTaken i.size chunks := by
  simp [bytesTaken]

theorem bytesTaken_of_ne_nil (refill : Nat) {chunks : List Instr} (some : chunks ≠ []) :
    bytesTaken refill chunks = refill + totalSize chunks.dropLast := by
  rw [bytesTaken, List.dropLast_cons_of_ne_nil (by simpa using some), List.sum_cons, ← List.map_dropLast, totalSize]

/-- What a step with only `PULL`s to come takes, if it enters or repeats no fault: nothing, or its refill to decode an
instruction, whose size is the next refill unless it ends the session. -/
theorem taken_of_step {s t : State} (pulls : s.PullsOnly) (h : step s = .next t) (noFault : t.phase ≠ .faulted) :
    (s.chunkAt = none ∧ t.pos = s.pos ∧ t.source.bytes = s.source.bytes ∧ t.refill = s.refill) ∨
    ∃ i, s.chunkAt = some i ∧ t.pos = s.pos + s.refill.val ∧ s.refill.val ≤ s.source.bytes.length ∧
      t.source.bytes = s.source.bytes.drop s.refill.val ∧ (t.refill = i.size ∨ t.phase = .ended) := by
  cases step_cases h with
  | reset rest hi e => exact absurd (.inl (by simp [hi])) pulls.not_initialises
  | start rest hi e => exact absurd (.inr (by simp [hi])) pulls.not_initialises
  | attach src rest hi e => exact nomatch pulls (.attach src) (by simp [hi])
  | idle hi e =>
    subst e
    exact .inl ⟨chunkAt_of_no_pull (by simp [hi]), rfl, rfl, rfl⟩
  | notStarted rest hi hp e | afterEnd rest hi hp e | afterFault rest hi hp e =>
    subst e
    exact .inl ⟨chunkAt_of_not_streaming (by simp [hp]), rfl, rfl, rfl⟩
  | continuation rest hi hp hr e =>
    subst e
    exact .inl ⟨chunkAt_of_runPending hr, rfl, rfl, rfl⟩
  | readFailed rest src d hs e =>
    subst e
    exact absurd rfl noFault
  | readWaiting rest src d hs e =>
    subst e
    exact .inl ⟨chunkAt_of_no_bytes (by simp [hs]), rfl, (Source.read_waiting hs).1, rfl⟩
  | undecodable rest bs src r d hs hw e => exact absurd hw (decodeWindow_ne_error _ r)
  | decoded rest bs src i d hs hw e =>
    obtain ⟨-, refill, pos, source, -, -⟩ := exec_frame e
    obtain ⟨enough, -, -, left, -⟩ := Source.read_bytes hs
    refine .inr ⟨i, chunkAt_of_decoded d hs hw, by simp [pos], enough, by simp [source, left], ?_⟩
    by_cases isEnd : i = .endMarker
    · subst isEnd
      obtain rfl := Host.Outcome.next.inj e
      exact .inr rfl
    · exact .inl (refill.trans (State.setRefill_refill _ _ isEnd))

/-- A session that is not STREAMING decodes nothing more. -/
theorem chunksIn_of_not_streaming (k : Nat) {s : State} (pulls : s.PullsOnly) (notStreaming : s.phase ≠ .streaming) :
    chunksIn k s = [] := by
  induction k generalizing s with
  | zero => rfl
  | succ k ih =>
    rcases step_next_or_never s with ⟨u, h⟩ | ⟨h, -, -⟩
    · have phase : u.phase = s.phase := phase_of_run pulls notStreaming (run_of_step 0 h)
      rw [chunksIn_of_step k h, chunkAt_of_not_streaming notStreaming, ih (pulls.step h) (phase ▸ notStreaming)]
      rfl
    · rw [chunksIn, h]

/-- Over a run of pulls the bytes taken are those of the refills, and the source has lost exactly these. -/
theorem bytesTaken_of_run {k : Nat} {s t : State} (pulls : s.PullsOnly)
    (run : Host.Core.run Sys2Proof.core k s = .next t) (noFault : t.phase ≠ .faulted) :
    t.pos = s.pos + bytesTaken s.refill (chunksIn k s) ∧
    bytesTaken s.refill (chunksIn k s) ≤ s.source.bytes.length ∧
    t.source.bytes = s.source.bytes.drop (bytesTaken s.refill (chunksIn k s)) := by
  induction k generalizing s with
  | zero =>
    obtain rfl := Host.Outcome.next.inj run
    simp [chunksIn]
  | succ k ih =>
    obtain ⟨u, h, run⟩ := step_of_run run
    have noFaultYet : u.phase ≠ .faulted := fun faulted =>
      noFault ((phase_of_run (pulls.step h) (by simp [faulted]) run).trans faulted)
    obtain ⟨pos, le, left⟩ := ih (pulls.step h) run
    rw [chunksIn_of_step k h]
    rcases taken_of_step pulls h noFaultYet with ⟨chunk, upos, ubytes, urefill⟩ | ⟨i, chunk, upos, enough, ubytes, next⟩
    · rw [upos, urefill] at pos
      rw [ubytes, urefill] at le left
      simpa [chunk] using ⟨pos, le, left⟩
    · have later : bytesTaken u.refill (chunksIn k u) = bytesTaken i.size (chunksIn k u) := by
        rcases next with size | ended
        · rw [size]
        · rw [chunksIn_of_not_streaming k (pulls.step h) (by simp [ended]), bytesTaken_nil, bytesTaken_nil]
      rw [later, ubytes, List.length_drop] at le
      rw [later, upos] at pos
      rw [later, ubytes, List.drop_drop] at left
      simp only [chunk, Option.toList_some, List.singleton_append, bytesTaken_cons]
      exact ⟨by omega, by omega, left⟩

/-- Settles O54: in a session the first refill is of 8 bytes. -/
theorem lookaheadConsumption : Obligations.LookaheadConsumption := by
  intro s t k initial start inputs run noFault some
  obtain ⟨pos, -, left⟩ := bytesTaken_of_run (pullsOnly_of_replicate inputs) run noFault
  rw [initial.refill, bytesTaken_of_ne_nil 8 some] at pos left
  rw [start, Nat.zero_add] at pos
  exact ⟨pos, pos ▸ left⟩

/-! ## How long a session lasts -/

/-- The continuations still due. -/
def State.continuationsDue (s : State) : Nat := if s.runPending then s.runRemaining.toNat else 0

theorem continuationsDue_le (s : State) : s.continuationsDue ≤ s.runRemaining.toNat := by
  rw [State.continuationsDue]
  split <;> omega

theorem size_pos (i : Instr) : 0 < i.size.val := by
  cases i <;> simp [Instr.size, Kind.size]

/-- A chunk decoded leaves at most 61 continuations due, the longest Run's. -/
theorem continuationsDue_of_chunk {s t : State} {i : Instr} (h : step s = .next t) (chunk : s.chunkAt = some i) :
    t.continuationsDue ≤ 61 := by
  have notPending : s.runPending = false := by
    by_contra pending
    exact nomatch chunk.symm.trans (chunkAt_of_runPending (Bool.not_eq_false _ ▸ pending))
  cases runStateCase_of_step h with
  | initialised _ flag | cleared _ _ _ _ flag => simp [State.continuationsDue, State.runPending, flag]
  | began n _ _ _ isRun _ count =>
    have payload : n.toNat ≤ 61 := by
      simpa [Instr.wellFormed, runPayloadOk] using wellFormed_of_chunkAt isRun
    exact (continuationsDue_le t).trans (count ▸ payload)
  | continued _ _ pending => simp [notPending] at pending
  | kept _ _ flag count =>
    have same : t.runPending = s.runPending := by rw [State.runPending, flag, count, State.runPending]
    simp [State.continuationsDue, same, notPending]

/-- Where reads are answered at once, a `PULL` in STREAMING is a continuation, or decodes something, or fails its read. -/
theorem runPending_of_no_chunk {s t : State} {rest : List Input} (pull : s.inputs = .pull :: rest)
    (streaming : s.phase = .streaming) (atOnce : s.source.answers = []) (h : step s = .next t)
    (noFault : t.phase ≠ .faulted) (noChunk : s.chunkAt = none) : s.runPending = true := by
  by_contra notPending
  have due : WindowStepDue s rest := ⟨pull, streaming, runPending_eq_false.mp (Bool.not_eq_true _ ▸ notPending)⟩
  rcases s.source.read_cases s.refill.val with ⟨-, -, read⟩ | ⟨read, -⟩ | ⟨-, waits⟩ | ⟨-, never⟩
  · obtain ⟨i, decodes, -⟩ := step_of_read_bytes due read
    exact nomatch (chunkAt_of_decoded due read decodes).symm.trans noChunk
  · obtain rfl := Host.Outcome.next.inj ((step_of_read_srcFail due read).symm.trans h)
    exact noFault rfl
  · simp [atOnce] at waits
  · simp [atOnce] at never

/-- Each pull of a session uses up a continuation due, or decodes an instruction, each of whose bytes pays for 62 steps: at
most 61 continuations and the step itself. -/
theorem progress_of_step {s t : State} {rest : List Input} (pull : s.inputs = .pull :: rest)
    (streaming : s.phase = .streaming) (atOnce : s.source.answers = []) (h : step s = .next t)
    (noFault : t.phase ≠ .faulted) : t.continuationsDue + 1 ≤ s.continuationsDue + 62 * totalSize s.chunkAt.toList := by
  cases chunk : s.chunkAt with
  | none =>
    have pending := runPending_of_no_chunk pull streaming atOnce h noFault chunk
    have positive := (runPending_eq_true.mp pending).2
    have count : t.runRemaining.toNat = s.runRemaining.toNat - 1 := by
      obtain rfl := Host.Outcome.next.inj ((step_of_runPending pull streaming pending).symm.trans h)
      exact countRun_runRemaining_toNat positive
    have before : s.continuationsDue = s.runRemaining.toNat := if_pos pending
    have after := continuationsDue_le t
    omega
  | some i =>
    have left := continuationsDue_of_chunk h chunk
    have pays := size_pos i
    simp only [Option.toList_some, totalSize, List.map_cons, List.map_nil, List.sum_cons, List.sum_nil]
    omega

/-- A completed pull of a session whose reads are answered at once takes its input, and the reads stay so. -/
theorem atOnce_of_step {s t : State} {rest : List Input} (pulls : s.PullsOnly) (pull : s.inputs = .pull :: rest)
    (atOnce : s.source.answers = []) (h : step s = .next t) : t.inputs = rest ∧ t.source.answers = [] := by
  constructor
  · rcases oneResponseForEachPull s t rest pull h with ⟨taken, -⟩ | ⟨-, -, src, waits⟩
    · exact taken
    · rcases s.source.read_cases s.refill.val with ⟨-, -, e⟩ | ⟨e, -⟩ | ⟨-, waits'⟩ | ⟨e, -⟩
      · exact nomatch e.symm.trans waits
      · exact nomatch e.symm.trans waits
      · simp [atOnce] at waits'
      · exact nomatch e.symm.trans waits
  · rcases (inputs_source_of_step h).2 with suffix | ⟨src, mem, -⟩
    · exact List.suffix_nil.mp (atOnce ▸ suffix)
    · exact nomatch pulls _ mem

/-- While a session streams, its steps are paid for by the continuations due and the bytes of what it decodes. -/
theorem steps_le_of_streaming {k : Nat} {s t : State} (inputs : s.inputs = List.replicate k .pull)
    (atOnce : s.source.answers = []) (run : Host.Core.run Sys2Proof.core k s = .next t) (streaming : t.phase = .streaming) :
    k ≤ s.continuationsDue + 62 * totalSize (chunksIn k s) := by
  induction k generalizing s with
  | zero => omega
  | succ k ih =>
    have pulls := pullsOnly_of_replicate inputs
    obtain ⟨u, h, later⟩ := step_of_run run
    have before : s.phase = .streaming := by
      by_contra other
      exact other ((phase_of_run pulls other run).symm.trans streaming)
    have noFault : u.phase ≠ .faulted := fun faulted => by
      have := phase_of_run (pulls.step h) (by simp [faulted]) later
      simp [faulted, streaming] at this
    obtain ⟨inputs', atOnce'⟩ := atOnce_of_step pulls inputs atOnce h
    have bound := ih inputs' atOnce' later
    have progress := progress_of_step inputs before atOnce h noFault
    have total : totalSize (chunksIn (k + 1) s) = totalSize s.chunkAt.toList + totalSize (chunksIn k u) := by
      rw [chunksIn_of_step k h]
      simp [totalSize]
    omega

/-- Settles O55: at the session's start no continuation is due. -/
theorem sessionStepBound : Obligations.SessionStepBound := by
  intro s t k initial inputs atOnce run streaming
  have noneDue : s.continuationsDue = 0 := by simp [State.continuationsDue, State.runPending, initial.runActive]
  simpa [noneDue] using steps_le_of_streaming inputs atOnce run streaming

/-- The first refill of 8 bytes is no less than the last instruction's size, so the instructions decoded are no longer than
the stream. -/
theorem totalSize_le_bytesTaken (chunks : List Instr) : totalSize chunks ≤ bytesTaken 8 chunks := by
  cases chunks using List.reverseRecOn with
  | nil => simp [totalSize]
  | append_singleton chunks i =>
    rw [bytesTaken_of_ne_nil 8 (by simp), List.dropLast_concat]
    simp only [totalSize, List.map_append, List.sum_append, List.map_cons, List.map_nil, List.sum_cons, List.sum_nil]
    omega

/-- Settles O56: nothing stops such a session, and one that still streamed would have taken fewer steps than it has. -/
theorem finiteStreamReachesTerminal : Obligations.FiniteStreamReachesTerminal := by
  intro s initial atOnce inputs
  have pulls := pullsOnly_of_replicate inputs
  have answer : s.sourcesAnswer = true :=
    (sourcesAnswer_iff s).mpr ⟨by simp [atOnce], fun src mem => nomatch pulls _ mem⟩
  obtain ⟨t, run⟩ := run_of_sourcesAnswer (62 * s.source.bytes.length + 1) answer
  have notIdle : t.phase ≠ .idle := not_idle_of_run pulls (by simp [initial.phase]) run
  refine ⟨t, run, ?_⟩
  cases phase : t.phase with
  | idle => exact absurd phase notIdle
  | ended => exact .inl rfl
  | faulted => exact .inr rfl
  | streaming =>
    have steps := sessionStepBound s t _ initial inputs atOnce run phase
    obtain ⟨-, taken, -⟩ := bytesTaken_of_run pulls run (by simp [phase])
    rw [initial.refill] at taken
    have := totalSize_le_bytesTaken (chunksIn (62 * s.source.bytes.length + 1) s)
    omega

end Sys2Proof.Machine
end

section
/-! PROOF. The headline: a well-formed stream decodes to the reference decoder's pixels, by a simulation that relates the
block at each due window step to the picture drawn so far. -/

namespace Sys2Proof.Machine

open Sys2Proof

/-! ## The reference decoder -/

theorem Picture.out_prefix_draw (d : Picture) (i : Instr) : d.out <+: (d.draw i).out := by
  cases i with
  | endMarker => exact List.prefix_rfl
  | rgb | rgba | index | diff | luma | run => exact List.prefix_append _ _

theorem Picture.out_prefix_drawAll (d : Picture) (cs : List Instr) : d.out <+: (d.drawAll cs).out := by
  induction cs generalizing d with
  | nil => exact List.prefix_rfl
  | cons i cs ih => exact (d.out_prefix_draw i).trans (ih (d.draw i))

theorem lastWritten_cons (p : Pixel) (seen : List Pixel) (slot : Nat) :
    lastWritten (p :: seen) slot = if slot = slotNumber p then p else lastWritten seen slot := by
  by_cases own : slot = slotNumber p
  · simp [lastWritten, own]
  · simp [lastWritten, own, Ne.symm own]

/-! ## The simulation relation -/

/-- The block `s`, with a window step due, agrees with the picture `d` drawn so far; `stream` is what is still to be
decoded, of which the window holds the beginning, and `done` the bytes of the chunks decoded. -/
structure Synced (s : State) (d : Picture) (stream : List Byte) (done : Nat) : Prop where
  streaming : s.phase = .streaming
  noRun : s.runActive = false ∨ s.runRemaining.toNat = 0
  atOnce : s.source.answers = []
  unread : s.win.toList.drop s.refill.val ++ s.source.bytes = stream
  count : s.pos + s.refill.val = done + 8
  prev : s.prev = d.prev
  slots : ∀ j : Fin 64, s.cache[j] = lastWritten d.seen j.val

/-- The next step outputs the one pixel the reference decoder adds for `i`, and ends in agreement after it. -/
def DrawsOnePixel (s : State) (d : Picture) (stream : List Byte) (done : Nat) (rest : List Input) (i : Instr) : Prop :=
  ∃ t p, step s = .next t ∧ t.response = some (.pixel p) ∧ t.inputs = rest ∧ (d.draw i).out = d.out ++ [p] ∧
    Synced t (d.draw i) (stream.drop i.size.val) (done + i.size.val)

/-- The block `t` has ended its session with the picture `d` drawn and `rest` still to come; `size` is the bytes the stream
had, the marker's among them, and `tail` what follows it. -/
structure Finished (t : State) (d : Picture) (tail : List Byte) (size : Nat) (rest : List Input) : Prop where
  phase : t.phase = .ended
  prev : t.prev = d.prev
  source : t.source = ⟨tail, []⟩
  pos : t.pos = size
  inputs : t.inputs = rest
  slots : ∀ j : Fin 64, t.cache[j] = lastWritten d.seen j.val

section
variable {s : State} {d : Picture} {stream : List Byte} {done : Nat} (sync : Synced s d stream done)
include sync

/-- The refill makes the window the first 8 bytes still to be decoded. -/
theorem Synced.windowReady {rest : List Input} {w : Window} (pull : s.inputs = .pull :: rest)
    (first8 : w.toList = stream.take 8) : WindowReady s rest w ⟨stream.drop 8, []⟩ := by
  have kept : (s.win.toList.drop s.refill.val).length = 8 - s.refill.val := by simp
  have unread := sync.unread
  have enough : s.refill.val ≤ s.source.bytes.length := by
    have := congrArg List.length (first8.trans (congrArg (List.take 8) unread.symm))
    simp only [Vector.length_toList, List.length_take, List.length_append, kept] at this
    omega
  have refill_le : s.refill.val ≤ 8 := by omega
  have rest8 : 8 - (8 - s.refill.val) = s.refill.val := by omega
  have taken : stream.take 8 = s.win.toList.drop s.refill.val ++ s.source.bytes.take s.refill.val := by
    rw [← unread, List.take_append, kept, rest8, List.take_of_length_le (by rw [kept]; omega)]
  have left : stream.drop 8 = s.source.bytes.drop s.refill.val := by
    rw [← unread, List.drop_append, kept, rest8, List.drop_of_length_le (by rw [kept]; omega), List.nil_append]
  refine ⟨⟨pull, sync.streaming, sync.noRun⟩, s.source.bytes.take s.refill.val, ?read, Vector.toList_inj.mp ?window⟩
  case read => rw [Source.read_of_supplies (.inl sync.atOnce) enough, sync.atOnce, left, List.tail_nil]
  case window => rw [Window.refilled_toList _ _ _ refill_le (by simpa using enough), first8, taken]

/-- After the steps of a chunk that leave the window step's frame, the block agrees with the picture in which the chunk is
drawn, if its `prev` and cache do. -/
theorem Synced.advance {rest : List Input} {w : Window} {t : State} {d' : Picture} {i : Instr}
    (first8 : w.toList = stream.take 8) (frame : WindowStepFrame s rest w ⟨stream.drop 8, []⟩ t)
    (refill : t.refill.val = i.size.val) (noRun : t.runActive = false ∨ t.runRemaining.toNat = 0)
    (prev : t.prev = d'.prev) (slots : ∀ j : Fin 64, t.cache[j] = lastWritten d'.seen j.val) :
    Synced t d' (stream.drop i.size.val) (done + i.size.val) where
  streaming := frame.phase.trans sync.streaming
  noRun := noRun
  atOnce := by rw [frame.source]
  unread := by
    have size_le : i.size.val ≤ w.toList.length := by rw [Vector.length_toList]; omega
    rw [frame.win, frame.source, refill, ← List.drop_append_of_le_length size_le, first8, List.take_append_drop]
  count := by
    have := sync.count
    rw [frame.pos, refill]
    omega
  prev := prev
  slots := slots

/-- A chunk at the head of the stream decodes to itself at the next window step. -/
theorem Synced.ready {i : Instr} {after : List Byte} {rest : List Input} (head : stream = encode i ++ after)
    (full : 8 ≤ stream.length) (ok : i.wellFormed = true)
    (noChance : i = .endMarker ∨ stream.take 8 ≠ encode .endMarker) (pull : s.inputs = .pull :: rest) :
    ∃ w : Window, w.toList = stream.take 8 ∧ decodeWindow w = .ok i ∧ WindowReady s rest w ⟨stream.drop 8, []⟩ := by
  subst head
  obtain ⟨w, first8, decodes, -⟩ := decode_eq_ok_iff.mp (decodeOfEncode i after ok full noChance)
  exact ⟨w, first8, decodes, sync.windowReady pull first8⟩

/-- A chunk that produces a pixel paints it. -/
theorem Synced.produce {rest : List Input} {w : Window} {i : Instr} {pixelOf : Pixel → Pixel}
    (first8 : w.toList = stream.take 8) (ready : WindowReady s rest w ⟨stream.drop 8, []⟩)
    (decodes : decodeWindow w = .ok i) (chunk : i ≠ .endMarker)
    (produces : ∀ u : State, exec i u = .next (u.produce (pixelOf u.prev)))
    (draws : d.draw i = d.paint (pixelOf d.prev)) : DrawsOnePixel s d stream done rest i := by
  obtain ⟨t, runs, prev, response, written, refill, flag, -, frame⟩ := step_of_produce ready decodes chunk produces
  rw [sync.prev] at prev
  rw [prev] at response written
  have slots (j : Fin 64) : t.cache[j] = lastWritten (pixelOf d.prev :: d.seen) j.val := by
    rw [written j, sync.slots j, lastWritten_cons]
  exact ⟨t, _, runs, response, frame.inputs, by rw [draws]; rfl,
    draws ▸ sync.advance (d' := d.paint _) first8 frame refill (.inl flag) prev slots⟩

/-- An Index chunk outputs the most recent pixel of its slot. -/
theorem Synced.index {rest : List Input} {w : Window} {j : Slot} (first8 : w.toList = stream.take 8)
    (ready : WindowReady s rest w ⟨stream.drop 8, []⟩) (decodes : decodeWindow w = .ok (.index j)) :
    DrawsOnePixel s d stream done rest (.index j) := by
  have slot : s.cacheRead j = lastWritten d.seen j.toNat := sync.slots ⟨j.toNat, j.isLt⟩
  have runs := (step_of_windowReady ready decodes).trans (exec_index _ _)
  exact ⟨_, _, runs, congrArg (some ∘ Response.pixel) slot, rfl, rfl,
    sync.advance (i := .index j) first8 ⟨rfl, rfl, rfl, rfl, rfl, rfl, rfl⟩ rfl (.inl rfl) slot sync.slots⟩

/-- A chunk that is no Run outputs the one pixel the reference decoder adds for it. -/
theorem Synced.pixel {rest : List Input} {w : Window} {i : Instr} (first8 : w.toList = stream.take 8)
    (ready : WindowReady s rest w ⟨stream.drop 8, []⟩) (decodes : decodeWindow w = .ok i) (chunk : i ≠ .endMarker)
    (noRun : ∀ n, i ≠ .run n) : DrawsOnePixel s d stream done rest i := by
  have painted {pixelOf : Pixel → Pixel} := sync.produce (pixelOf := pixelOf) first8 ready decodes chunk
  cases i with
  | endMarker => exact absurd rfl chunk
  | run n => exact absurd rfl (noRun n)
  | index j => exact sync.index first8 ready decodes
  | rgb r g b => exact painted (pixelOf := fun prev => rgbPixel prev r g b) (fun u => exec_rgb u r g b) rfl
  | rgba r g b a => exact painted (pixelOf := fun _ => rgbaPixel r g b a) (fun u => exec_rgba u r g b a) rfl
  | diff dr dg db => exact painted (pixelOf := fun prev => diffPixel prev dr dg db) (fun u => exec_diff u dr dg db) rfl
  | luma dg drdg dbdg =>
    refine painted (pixelOf := fun prev => lumaPixel prev dg drdg dbdg) (fun u => exec_luma u dg drdg dbdg) ?draws
    case draws => simp only [Picture.draw, lumaPixel, add8, BitVec.add_assoc]

/-- A Run and its continuations output the previous pixel as often as the reference decoder, which draws the run at
once. -/
theorem Synced.run {rest : List Input} {w : Window} {n : Slot} (first8 : w.toList = stream.take 8)
    (ready : WindowReady s (List.replicate n.toNat .pull ++ rest) w ⟨stream.drop 8, []⟩)
    (decodes : decodeWindow w = .ok (.run n)) :
    responsesIn (n.toNat + 1) s = List.replicate (n.toNat + 1) (.pixel d.prev) ∧
    ∃ t : State, Host.Core.run Sys2Proof.core (n.toNat + 1) s = .next t ∧ t.inputs = rest ∧
      Synced t (d.draw (.run n)) (stream.drop 1) (done + 1) := by
  obtain ⟨responses, t, run, prev, cache, refill, count, frame⟩ := run_chunk ready decodes
  rw [sync.prev] at responses prev
  exact ⟨responses, t, run, frame.inputs,
    sync.advance (i := .run n) first8 frame refill (.inr count) prev (cache ▸ sync.slots)⟩

/-- The marker ends the session: the picture is finished, and the source stands after the marker. -/
theorem Synced.finish {tail : List Byte} {rest : List Input} (marker : stream = encode .endMarker ++ tail)
    (pull : s.inputs = .pull :: rest) :
    ∃ t, step s = .next t ∧ t.response = some .endOfStream ∧ Finished t d tail (done + 8) rest := by
  have full : 8 ≤ stream.length := by rw [marker, List.length_append, length_encode]; exact Nat.le_add_right 8 _
  obtain ⟨w, -, decodes, ready⟩ := sync.ready marker full rfl (.inl rfl) pull
  obtain ⟨t, runs, response, phase, prev, cache, -, -, -, -, -, source, pos, inputs⟩ :=
    endMarkerStep.1 s rest w _ ready ((decodeWindow_eq_endMarker_iff w).mp decodes)
  have left : stream.drop 8 = tail := by rw [marker]; rfl
  exact ⟨t, runs, response,
    ⟨phase, prev.trans sync.prev, by rw [source, left], pos.trans sync.count, inputs, cache ▸ sync.slots⟩⟩

end

/-! ## The stream -/

/-- The steps of one chunk give the pixels the reference decoder adds for it, and end in agreement after it. -/
theorem Synced.chunk {s : State} {d : Picture} {i : Instr} {after : List Byte} {done : Nat}
    (sync : Synced s d (encode i ++ after) done) (full : 8 ≤ (encode i ++ after).length) (ok : i.wellFormed = true)
    (chunk : i ≠ .endMarker) (noChance : (encode i ++ after).take 8 ≠ encode .endMarker) {ps : List Pixel}
    (out : (d.draw i).out = d.out ++ ps) {rest : List Input} (inputs : s.inputs = List.replicate ps.length .pull ++ rest) :
    responsesIn ps.length s = ps.map .pixel ∧
    ∃ t : State, Host.Core.run Sys2Proof.core ps.length s = .next t ∧ t.inputs = rest ∧
      Synced t (d.draw i) after (done + i.size.val) := by
  have afterwards : (encode i ++ after).drop i.size.val = after := by rw [← length_encode, List.drop_left]
  by_cases isRun : ∃ n, i = .run n
  · obtain ⟨n, rfl⟩ := isRun
    obtain rfl : ps = List.replicate (n.toNat + 1) d.prev := List.append_cancel_left out.symm
    rw [List.length_replicate] at inputs ⊢
    obtain ⟨w, first8, decodes, ready⟩ := sync.ready rfl full ok (.inr noChance) inputs
    obtain ⟨responses, t, run, taken, synced⟩ := sync.run first8 ready decodes
    exact ⟨by rw [responses, List.map_replicate], t, run, taken, afterwards ▸ synced⟩
  · have onePixel : ∃ p, ps = [p] := by
      cases i with
      | run n => exact absurd ⟨n, rfl⟩ isRun
      | endMarker => exact absurd rfl chunk
      | rgb | rgba | index | diff | luma => exact ⟨_, List.append_cancel_left out.symm⟩
    obtain ⟨p, rfl⟩ := onePixel
    obtain ⟨w, first8, decodes, ready⟩ := sync.ready rfl full ok (.inr noChance) inputs
    obtain ⟨t, q, runs, response, taken, adds, synced⟩ :=
      sync.pixel first8 ready decodes chunk (not_exists.mp isRun)
    obtain rfl : p = q := by simpa using out.symm.trans adds
    refine ⟨?_, t, run_of_step 0 runs, taken, afterwards ▸ synced⟩
    rw [List.length_singleton, responsesIn_of_step 0 runs, response]
    rfl

/-- From agreement at the head of a stream of chunks and the marker, the block gives the reference decoder's remaining pixels
and End, and ends in ENDED with the reference decoder's `prev` and cache, its source after the marker. -/
theorem Synced.stream {cs : List Instr} {s : State} {d : Picture} {tail : List Byte} {done : Nat}
    (sync : Synced s d (encodeAll cs ++ (encode .endMarker ++ tail)) done)
    (ok : ∀ i ∈ cs, i.wellFormed = true ∧ i ≠ .endMarker) (noChance : noAlias (encode .endMarker ++ tail) cs = true)
    {ps : List Pixel} (out : (d.drawAll cs).out = d.out ++ ps) {rest : List Input}
    (inputs : s.inputs = List.replicate (ps.length + 1) .pull ++ rest) :
    responsesIn (ps.length + 1) s = ps.map .pixel ++ [.endOfStream] ∧
    ∃ t : State, Host.Core.run Sys2Proof.core (ps.length + 1) s = .next t ∧
      Finished t (d.drawAll cs) tail (done + totalSize cs + 8) rest := by
  induction cs generalizing s d done ps with
  | nil =>
    obtain rfl : ps = [] := by simpa [Picture.drawAll] using out
    obtain ⟨t, runs, response, finished⟩ := sync.finish rfl inputs
    refine ⟨?_, t, run_of_step 0 runs, finished⟩
    rw [List.length_nil, responsesIn_of_step 0 runs, response]
    rfl
  | cons i cs ih =>
    obtain ⟨⟨okHead, chunk⟩, okTail⟩ := List.forall_mem_cons.mp ok
    simp only [noAlias, Bool.and_eq_true, decide_eq_true_eq] at noChance
    obtain ⟨noChanceHead, noChanceTail⟩ := noChance
    obtain ⟨ps₁, out₁⟩ := d.out_prefix_draw i
    obtain ⟨ps₂, out₂⟩ := (d.draw i).out_prefix_drawAll cs
    obtain rfl : ps = ps₁ ++ ps₂ := by
      refine List.append_cancel_left (as := d.out) (out.symm.trans ?_)
      rw [← List.append_assoc, out₁, out₂]
      rfl
    have head : encodeAll (i :: cs) ++ (encode .endMarker ++ tail) =
        encode i ++ (encodeAll cs ++ (encode .endMarker ++ tail)) := by simp [encodeAll]
    rw [head] at sync noChanceHead
    have full : 8 ≤ (encode i ++ (encodeAll cs ++ (encode .endMarker ++ tail))).length := by
      simp only [List.length_append, length_encode .endMarker, Instr.size]
      omega
    have pulls : s.inputs = List.replicate ps₁.length .pull ++ (List.replicate (ps₂.length + 1) .pull ++ rest) := by
      rw [inputs, List.length_append, Nat.add_assoc, List.replicate_add, List.append_assoc]
    obtain ⟨responses₁, u, run₁, taken, sync₁⟩ := sync.chunk full okHead chunk noChanceHead out₁.symm pulls
    obtain ⟨responses₂, t, run₂, finished⟩ := ih sync₁ okTail noChanceTail out₂.symm taken
    have sizes : done + i.size.val + totalSize cs + 8 = done + totalSize (i :: cs) + 8 := by
      simp only [totalSize, List.map_cons, List.sum_cons]
      omega
    rw [List.length_append, Nat.add_assoc]
    refine ⟨?responses, t, (run_add _ _ run₁).trans run₂, sizes ▸ finished⟩
    case responses => rw [responsesIn_add _ _ run₁, responses₁, responses₂, List.map_append, List.append_assoc]

theorem synced_initialise (s : State) (atOnce : s.source.answers = []) :
    Synced (s.initialise .streaming) .blank s.source.bytes 0 where
  streaming := rfl
  noRun := .inl rfl
  atOnce := atOnce
  unread := rfl
  count := rfl
  prev := rfl
  slots := fun j => Vector.getElem_replicate j.isLt

/-- Settles O57: `START` brings the block to agree with the blank picture before the whole stream. -/
theorem streamDecodesToReferencePixels : Obligations.StreamDecodesToReferencePixels := by
  intro s cs tail rest ok noChance source inputs
  have begins := step_start inputs
  have sync := synced_initialise
    { s with inputs := List.replicate ((Picture.blank.drawAll cs).out.length + 1) .pull ++ rest }
    (congrArg Source.answers source)
  rw [congrArg Source.bytes source, List.append_assoc] at sync
  obtain ⟨responses, t, run, finished⟩ := sync.stream ok noChance (List.nil_append _).symm rfl
  refine ⟨?responses, t, (run_of_step _ begins).trans run, finished.phase, finished.prev, finished.source,
    by rw [finished.pos, Nat.zero_add], finished.inputs, finished.slots⟩
  case responses =>
    rw [responsesIn_of_step _ begins, responses]
    rfl

end Sys2Proof.Machine
end

section
/-! PROOF. Several blocks side by side, spec/60_exceptions.md R90: each runs as it would alone. -/

namespace Sys2Proof.Machine

open Sys2Proof

theorem stepBlock_getElem?_of_ne {j k : Nat} (other : j ≠ k) (blocks : List State) :
    (stepBlock j blocks)[k]? = blocks[k]? := by
  rcases stepBlock_cases j blocks with ⟨s, t, -, -, e⟩ | ⟨-, e⟩
  · rw [e, List.getElem?_set_ne other]
  · rw [e]

/-- Whether and how a block steps depends on its own state alone. -/
theorem stepBlock_eq_self {k : Nat} {blocks : List State} (stops : ∀ s t, blocks[k]? = some s → step s ≠ .next t) :
    stepBlock k blocks = blocks := by
  rcases stepBlock_cases k blocks with ⟨s, t, hk, h, -⟩ | ⟨-, e⟩
  · exact absurd h (stops s t hk)
  · exact e

/-- Stepping another block after a block was put in place is stepping it before. -/
theorem stepBlock_set_comm {j k : Nat} (other : j ≠ k) (blocks : List State) (t : State) :
    stepBlock j (blocks.set k t) = (stepBlock j blocks).set k t := by
  have same : (blocks.set k t)[j]? = blocks[j]? := List.getElem?_set_ne other.symm
  rcases stepBlock_cases j blocks with ⟨s, u, hj, h, e⟩ | ⟨stops, e⟩
  · rw [e, stepBlock_of_step (same.trans hj) h, List.set_comm _ _ other.symm]
  · rw [e, stepBlock_eq_self (same ▸ stops)]

theorem stepBlock_comm {j k : Nat} (other : j ≠ k) (blocks : List State) :
    stepBlock j (stepBlock k blocks) = stepBlock k (stepBlock j blocks) := by
  have same : (stepBlock j blocks)[k]? = blocks[k]? := stepBlock_getElem?_of_ne other blocks
  rcases stepBlock_cases k blocks with ⟨s, t, hk, h, e⟩ | ⟨stops, e⟩
  · rw [e, stepBlock_set_comm other, stepBlock_of_step (same.trans hk) h]
  · rw [e, stepBlock_eq_self (k := k) (same ▸ stops)]

/-- Over any schedule a block ends where as many steps of its own take it alone, with the same responses. -/
theorem schedule_runs_alone {k : Nat} {sched : List Nat} {blocks : List State} {s t : State} (hk : blocks[k]? = some s)
    (run : Host.Core.run Sys2Proof.core (sched.count k) s = .next t) :
    (runSchedule sched blocks)[k]? = some t ∧ blockResponses k sched blocks = responsesIn (sched.count k) s := by
  induction sched generalizing blocks s with
  | nil => exact ⟨hk.trans (congrArg some (Host.Outcome.next.inj run)), rfl⟩
  | cons j sched ih =>
    rw [runSchedule, blockResponses]
    by_cases own : j = k
    · subst own
      rw [List.count_cons_self] at run ⊢
      obtain ⟨u, h, run⟩ := step_of_run run
      have inPlace : j < blocks.length := (List.getElem?_eq_some_iff.mp hk).1
      have next : (stepBlock j blocks)[j]? = some u := by
        rw [stepBlock_of_step hk h, List.getElem?_set_self inPlace]
      obtain ⟨ends, responses⟩ := ih next run
      exact ⟨ends, by simp [hk, stepResponse_of_step h, responses, responsesIn_of_step _ h]⟩
    · rw [List.count_cons_of_ne own] at run ⊢
      obtain ⟨ends, responses⟩ := ih ((stepBlock_getElem?_of_ne own blocks).trans hk) run
      exact ⟨ends, by simp [own, responses]⟩

/-- Settles O59: a block decodes its own stream under any schedule because it does so alone. -/
theorem blocksAreIndependent : Obligations.BlocksAreIndependent := by
  refine ⟨fun blocks j k other => ⟨stepBlock_getElem?_of_ne other blocks, stepBlock_comm other blocks⟩,
    fun blocks sched k s t => schedule_runs_alone, ?stream⟩
  case stream =>
    intro blocks sched k s cs tail rest hk ok noChance source inputs steps
    obtain ⟨responses, t, run, phase, prev, left, -⟩ :=
      streamDecodesToReferencePixels s cs tail rest ok noChance source inputs
    rw [← steps] at run responses
    obtain ⟨ends, same⟩ := schedule_runs_alone hk run
    exact ⟨same.trans responses, t, ends, phase, prev, left⟩

end Sys2Proof.Machine
end

section
/-! PROOF. The hash of spec/20_memory.md R36, the delta additions of spec/43_delta.md R74, and what each instruction's rule
completes with (spec/40_step_and_window.md R64, spec/41_color_literals.md to spec/44_run.md). -/

namespace Sys2Proof.Machine

open Sys2Proof

/-! ## The hash -/

/-- Settles O25: the hash is the slot number, and the examples evaluate. -/
theorem hashOfPixel : Obligations.HashOfPixel :=
  ⟨pixelHash_toNat, rfl, rfl, rfl⟩

/-- Settles O26: 64 divides 256, so the low six bits of the sum are those of its low eight. -/
theorem hashInWraparoundArithmetic : Obligations.HashInWraparoundArithmetic := by
  intro p
  apply BitVec.eq_of_toNat_eq
  simp only [pixelHash_toNat, slotNumber, BitVec.toNat_setWidth, BitVec.toNat_add, BitVec.toNat_mul,
    BitVec.ofNat_eq_ofNat, BitVec.toNat_ofNat]
  omega

/-! ## The delta additions -/

/-- Settles O24: the signed reading by numbers, the bias as a difference, and the order by the commutativity of addition. -/
theorem deltaAdditionIsSigned : Obligations.DeltaAdditionIsSigned := by
  refine ⟨add8_toNat_eq_add_s8, fun x k => ?neutral, fun x dg d => ?order⟩
  case neutral => rw [add8, bias, BitVec.sub_self, BitVec.add_zero]
  case order => simp only [add8, BitVec.add_assoc, BitVec.add_comm dg d]

/-! ## The rules -/

/-- Settles O27: the terminal of the end marker. -/
theorem execEndMarkerEndsSession : Obligations.ExecEndMarkerEndsSession :=
  exec_endMarker

theorem produce_execFrame (s : State) (p : Pixel) : ExecFrame s (s.produce p) :=
  ⟨rfl, rfl, rfl, rfl, rfl, rfl, rfl, rfl⟩

/-- Settles O28: both literals produce their pixel. -/
theorem execLiteralsProducePixel : Obligations.ExecLiteralsProducePixel :=
  ⟨fun s r g b => ⟨_, exec_rgb s r g b, rfl, rfl, produce_cacheWritten s _, rfl, rfl, produce_execFrame s _⟩,
    fun s r g b a => ⟨_, exec_rgba s r g b a, rfl, rfl, produce_cacheWritten s _, rfl, rfl, produce_execFrame s _⟩⟩

/-- Settles O29: the slot's pixel is emitted. -/
theorem execIndexReadsSlot : Obligations.ExecIndexReadsSlot :=
  fun s i => ⟨_, exec_index s i, rfl, rfl, rfl, rfl, rfl, ⟨rfl, rfl, rfl, rfl, rfl, rfl, rfl, rfl⟩⟩

/-- Two wraparound additions to a lane add both signed deltas. -/
theorem add8_add8_toNat_eq_add_s8 (x d e : Byte) :
    ((add8 (add8 x d) e).toNat : Int) = ((x.toNat : Int) + s8 d + s8 e) % 256 := by
  rw [add8_toNat_eq_add_s8, add8_toNat_eq_add_s8, Int.emod_add_emod]

/-- Settles O30: both deltas produce their pixel, lane by lane. -/
theorem execDeltasProducePixel : Obligations.ExecDeltasProducePixel :=
  ⟨fun s dr dg db => ⟨_, exec_diff s dr dg db, add8_toNat_eq_add_s8 _ _, add8_toNat_eq_add_s8 _ _,
      add8_toNat_eq_add_s8 _ _, rfl, rfl, produce_cacheWritten s _, rfl, rfl, produce_execFrame s _⟩,
    fun s dg drdg dbdg => ⟨_, exec_luma s dg drdg dbdg, add8_add8_toNat_eq_add_s8 _ _ _, add8_toNat_eq_add_s8 _ _,
      add8_add8_toNat_eq_add_s8 _ _ _, rfl, rfl, produce_cacheWritten s _, rfl, rfl, produce_execFrame s _⟩⟩

/-- Settles O31: the count and the flag are set and `prev` is the response. -/
theorem execRunBeginsRun : Obligations.ExecRunBeginsRun :=
  fun s n => ⟨_, exec_run s n, rfl, rfl, rfl, rfl, rfl, ⟨rfl, rfl, rfl, rfl, rfl, rfl, rfl, rfl⟩⟩

end Sys2Proof.Machine
end

section
/-! PROOF. The boot contract of spec/70_reset_and_hazards.md R99. -/

namespace Sys2Proof.Machine

open Sys2Proof

/-- The header stage on a file of at least 14 bytes. -/
theorem headerStage_of_header {hd : List Byte} (length : hd.length = 14) (rest : List Byte) :
    (hd.take 4 ≠ magic → headerStage (hd ++ rest) = .error .badMagic) ∧
    (hd.take 4 = magic → hd[12]? = some 3 ∨ hd[12]? = some 4 → ∃ header, headerStage (hd ++ rest) = .ok (header, rest)) := by
  match hd, length with
  | [m0, m1, m2, m3, w0, w1, w2, w3, h0, h1, h2, h3, ch, cs], _ =>
    refine ⟨fun other => if_pos other, fun isMagic channels => ?_⟩
    have ruled : ¬ (ch ≠ 3 ∧ ch ≠ 4) := by simpa [or_iff_not_imp_left] using channels
    exact ⟨_, (if_neg (not_not.mpr isMagic)).trans (if_neg ruled)⟩

theorem headerStage_of_short {file : List Byte} (short : file.length < 14) : headerStage file = .error .shortHeader := by
  unfold headerStage
  split
  · simp only [List.length_cons] at short
    omega
  · rfl

/-- Settles O58: the stage takes the header off the front, or declines the file. -/
theorem headerStageHandsOverChunks : Obligations.HeaderStageHandsOverChunks := by
  refine ⟨fun hd rest length isMagic channels => ?handsOver, fun file declined => ?declines⟩
  case handsOver =>
    obtain ⟨header, stage⟩ := (headerStage_of_header length rest).2 isMagic channels
    have inputs : bootInputs (hd ++ rest) = [.attach ⟨rest, []⟩, .start] := by rw [bootInputs, stage]
    exact ⟨inputs, by rw [inputs]; rfl⟩
  case declines =>
    by_cases short : file.length < 14
    · rw [bootInputs, headerStage_of_short short]
    · have other : (file.take 14).take 4 ≠ magic := by
        rw [List.take_take]
        exact declined.resolve_left short
      have stage := (headerStage_of_header (by rw [List.length_take]; omega) (file.drop 14)).1 other
      rw [List.take_append_drop] at stage
      rw [bootInputs, stage]

end Sys2Proof.Machine
end
